-- ==== Sys2Proof/Word.lean ====
section
/-! DEFINITION. The words on the ports of the BOC (00_scope.md R6, 10_state.md R15 and R16). Bit 0 is the least
significant bit of each (R9). -/

namespace Sys2Proof

/-- The operation word `opw[5:0]` (R15, R34). -/
abbrev Opw := BitVec 6

/-- The operand `x[63:0]` and the result `y[63:0]` (R6). -/
abbrev Data := BitVec 64

/-- The rotate count `s[31:0]`, a two's-complement signed integer (R6, R39). -/
abbrev Count := BitVec 32

end Sys2Proof
end

