-- ==== Sys2Proof/Config.lean ====
section
/-! DEFINITION. What the spec leaves to the implementation: the free values (93_implementation_defined.md I2, I7,
I8: "any value") and the named parameter `T_eval` (I10). None has a body, so nothing can be proved of its value. -/

namespace Sys2Proof

/-- What `y` shows while `cv` = 1, for the inputs on the ports (R73: "A model must not assume `y` is 0, `xw`, the
wrapped smear result or any other value"; I2). Safe: log 8. -/
opaque Config.violationY : Opw → Data → Count → Data

/-- `y` in the sample with number `n` when that sample is taken before the outputs have settled (R24, R89, R91; I7,
I8). Safe: log 9. -/
opaque Config.unsettledY : Nat → Data

/-- `cv` in the sample with number `n` when that sample is taken before the outputs have settled. Log 9. -/
opaque Config.unsettledCv : Nat → Bool

/-- `cvc` in the sample with number `n` when that sample is taken before the outputs have settled. Log 9. -/
opaque Config.unsettledCvc : Nat → BitVec 2

/-- `T_eval`, the time from stable inputs to settled outputs (R8, R95; D26). The unit of time is the reader's. -/
opaque Config.tEval : Nat

end Sys2Proof
end

