-- ==== Sys2Proof/Syntax.lean ====
section
/-! DEFINITION. The operations of the BOC (one constructor per row of opcode_table.json) and the host program that
issues them (70_reset_and_hazards.md R96). -/

namespace Sys2Proof

/-- The operand width W: the closed set {8, 16, 32, 64} (R5). No other width exists (R76). -/
inductive Width where
  | w8 | w16 | w32 | w64
  deriving DecidableEq, Repr

/-- W (R35). -/
def Width.bits : Width → Nat
  | .w8 => 8
  | .w16 => 16
  | .w32 => 32
  | .w64 => 64

/-- `log2W` (R13, R35). -/
def Width.log2 : Width → Nat
  | .w8 => 3
  | .w16 => 4
  | .w32 => 5
  | .w64 => 6

/-- One operation of the BOC at one width. The data operands are not part of the operation: they come in on the ports
`x` and `s` (R34: "The BOC has no immediates"). -/
inductive Instr where
  /-- Count leading zeros (R56). -/
  | clz (w : Width)
  /-- Count leading ones (R57). -/
  | clo (w : Width)
  /-- Count trailing zeros (R58). -/
  | ctz (w : Width)
  /-- Count trailing ones (R59). -/
  | cto (w : Width)
  /-- Population count (R60). -/
  | popc (w : Width)
  /-- Bit width (R66). -/
  | bwid (w : Width)
  /-- Has single bit (R67). -/
  | hsb (w : Width)
  /-- Round down to a power of two (R68). -/
  | bfloor (w : Width)
  /-- Round up to a power of two (R69). -/
  | bceil (w : Width)
  /-- Rotate left (R63). -/
  | rotl (w : Width)
  /-- Rotate right (R64). -/
  | rotr (w : Width)
  deriving DecidableEq, Repr

/-- The width an operation works at: `wsel` of its word (R35). -/
def Instr.width : Instr → Width
  | .clz w | .clo w | .ctz w | .cto w | .popc w | .bwid w | .hsb w | .bfloor w | .bceil w | .rotl w | .rotr w => w

/-- Whether the operation reads the count `s`: ROTL and ROTR only (R15, R36, R39). -/
def Instr.readsCount : Instr → Bool
  | .rotl _ | .rotr _ => true
  | .clz _ | .clo _ | .ctz _ | .cto _ | .popc _ | .bwid _ | .hsb _ | .bfloor _ | .bceil _ => false

/-- A value of a host program: "a literal, the result `y<j>` of an earlier issue j < k, or the value `h<j>` of an
earlier host step" (R96). -/
inductive Source where
  | lit (v : Data)
  | result (j : Nat)
  | host (j : Nat)
  deriving DecidableEq, Repr

/-- One issue: what the host drives on the three input ports, together (R91, R96). -/
structure Issue where
  opw : Source
  x : Source
  s : Source
  deriving DecidableEq, Repr

/-- One line of a host program (R96). A host step's value is the host's own matter, so the line carries the value the
host arrived at (log 4). -/
inductive HostItem where
  | issue (k : Issue)
  | hostStep (v : Data)
  deriving DecidableEq, Repr

end Sys2Proof
end

