-- ==== Sys2Proof/WellFormed.lean ====
section
/-! DEFINITION. Well-formedness. Every `Instr` is well formed, because `Width` has no fifth value (R5, R76); what is
checked is the building of a width from a number, and the references of a host program (R96). -/

namespace Sys2Proof

/-- "A model refuses any other width when it builds an operation" (R76). -/
def Width.ofNat? : Nat → Option Width
  | 8 => some .w8
  | 16 => some .w16
  | 32 => some .w32
  | 64 => some .w64
  | _ => none

/-- A reference names a result or a host value that exists already, when `ny` issues and `nh` host steps have run
(R96: "the result `y<j>` of an earlier issue j < k, or the value `h<j>` of an earlier host step"). -/
def Source.wf (ny nh : Nat) : Source → Bool
  | .lit _ => true
  | .result j => decide (j < ny)
  | .host j => decide (j < nh)

/-- The three values of an issue are well formed. -/
def Issue.wf (ny nh : Nat) (k : Issue) : Bool :=
  k.opw.wf ny nh && k.x.wf ny nh && k.s.wf ny nh

/-- A host program is well formed where `ny` issues and `nh` host steps have run before it (R96). -/
def programWf : Nat → Nat → List HostItem → Bool
  | _, _, [] => true
  | ny, nh, .issue k :: rest => k.wf ny nh && programWf (ny + 1) nh rest
  | ny, nh, .hostStep _ :: rest => programWf ny (nh + 1) rest

end Sys2Proof
end

