-- ==== Sys2Proof/Decode.lean ====
section
/-! DEFINITION. The operation word: decoding (30_encoding.md R34 to R37, R42) and, after it, encoding from the same
tables. -/

namespace Sys2Proof

/-- Why a word is not an operation. -/
inductive DecodeError where
  /-- `opc` is 11 to 15: "A reserved code selects no operation" (R37). -/
  | reservedOp (opc : BitVec 4)
  /-- The number does not fit the 6 bits of `opw` (R34: "only one length: 6 bits"). -/
  | wordTooWide (w : Nat)
  deriving DecidableEq, Repr

/-- `opc = opw[3:0]` (R34). -/
def opcOf (opw : Opw) : BitVec 4 := opw.extractLsb' 0 4

/-- `wsel = opw[5:4]` (R34). -/
def wselOf (opw : Opw) : BitVec 2 := opw.extractLsb' 4 2

/-- The width `wsel` selects; all four codes are legal (R35). -/
def widthOfWsel (wsel : BitVec 2) : Width :=
  match wsel.toNat with
  | 0 => .w8
  | 1 => .w16
  | 2 => .w32
  | _ => .w64

/-- The operation `opw` selects (R36), or the reserved code it holds (R37). -/
def decode (opw : Opw) : Except DecodeError Instr :=
  let w := widthOfWsel (wselOf opw)
  match (opcOf opw).toNat with
  | 0 => .ok (.clz w)
  | 1 => .ok (.clo w)
  | 2 => .ok (.ctz w)
  | 3 => .ok (.cto w)
  | 4 => .ok (.popc w)
  | 5 => .ok (.bwid w)
  | 6 => .ok (.hsb w)
  | 7 => .ok (.bfloor w)
  | 8 => .ok (.bceil w)
  | 9 => .ok (.rotl w)
  | 10 => .ok (.rotr w)
  | _ => .error (.reservedOp (opcOf opw))

/-- A word given as a number: only 6-bit numbers are operation words (R34, R42). -/
def decodeNat (w : Nat) : Except DecodeError Instr :=
  if w < 64 then decode (BitVec.ofNat 6 w) else .error (.wordTooWide w)

/-- The host's reading of the decoder on a word of opcode_table.json: `nbits` whole-byte bits of `w`, bit 0 the least
significant bit of `opw`. -/
def decodeTableWord (nbits w : Nat) : Option Instr :=
  match decodeNat (w % 2 ^ nbits) with
  | .ok i => some i
  | .error _ => none

/-- `wsel` of a width (R35). -/
def wselCode : Width → BitVec 2
  | .w8 => 0b00#2
  | .w16 => 0b01#2
  | .w32 => 0b10#2
  | .w64 => 0b11#2

/-- `opc` of an operation (R36). -/
def opcCode : Instr → BitVec 4
  | .clz _ => 0b0000#4
  | .clo _ => 0b0001#4
  | .ctz _ => 0b0010#4
  | .cto _ => 0b0011#4
  | .popc _ => 0b0100#4
  | .bwid _ => 0b0101#4
  | .hsb _ => 0b0110#4
  | .bfloor _ => 0b0111#4
  | .bceil _ => 0b1000#4
  | .rotl _ => 0b1001#4
  | .rotr _ => 0b1010#4

/-- `opw = {wsel, opc}` (R34). -/
def encode (i : Instr) : Opw := wselCode i.width ++ opcCode i

end Sys2Proof
end

