-- ==== Sys2Proof/Machine/State.lean ====
section
/-! DEFINITION. The state: the ports of the BOC (10_state.md R15, R16) and the host's side of the protocol
(70_reset_and_hazards.md R91, R96). The BOC itself holds no architectural state (R14), no memory (R25), no registers
(R19), no program counter (R20), no flags (R21), no control registers (R22); its two tables are constants (R18) and
stand in Machine/ZeroCount.lean. -/

namespace Sys2Proof.Machine

/-- The cause of a contract violation (R72). Cause code 3 is never driven, so it has no value here (I5); code 0 is the
absence of a violation. -/
inductive Violation where
  /-- `opc` in 11..15 (R37). -/
  | reservedOp
  /-- BCEIL with `xw > 2^(W-1)` (R69). -/
  | bceilRange
  deriving DecidableEq, Repr

/-- The one exception class (R71). -/
inductive Fault where
  /-- Raised by an issue whose `opw` is reserved and by BCEIL above its range. The spec names both, and says that a
  model faults (R74). Safe: no claim can rest on the unspecified `y`. -/
  | contractViolation (c : Violation)
  deriving DecidableEq, Repr

/-- Why a step has no meaning. -/
inductive Refusal where
  /-- Raised by an arm of exec that has no meaning yet; no arm is left so. Safe. -/
  | notModelled (mnemonic : String)
  /-- Raised by a step on an issue that names a result or a host value that does not exist (yet): such a program is
  outside R96's definition. Safe (log 7). -/
  | danglingReference
  deriving DecidableEq, Repr

/-- The ports and the host's lists. -/
structure State where
  /-- Input port `opw[5:0]` (R15). -/
  opw : Opw
  /-- Input port `x[63:0]` (R15). -/
  x : Data
  /-- Input port `s[31:0]` (R15). -/
  s : Count
  /-- Whether the inputs have been driven: until then the outputs are unspecified (R24, R89). -/
  driven : Bool
  /-- Output port `y[63:0]` (R16). -/
  y : Data
  /-- Output port `cv` (R16). -/
  cv : Bool
  /-- Output port `cvc[1:0]` (R16). -/
  cvc : BitVec 2
  /-- What is left of the host program, oldest first (R96). -/
  pending : List HostItem
  /-- `y0, y1, ...`: the results sampled so far (R96). -/
  results : List Data
  /-- `h0, h1, ...`: the values of the host steps so far (R96). -/
  hostVals : List Data
  deriving DecidableEq, Repr

/-- After power-up: no input is driven, no issue has been made and the host has no values (R24, R88, R89, and
95_test_vectors.md section 9). DESIGN CHOICE: the ports, which R24 leaves unspecified, are named 0 (log 2). -/
def State.reset : State where
  opw := 0
  x := 0
  s := 0
  driven := false
  y := 0
  cv := false
  cvc := 0
  pending := []
  results := []
  hostVals := []

end Sys2Proof.Machine
end

