-- ==== Sys2Proof/Machine/Flags.lean ====
section
/-! DEFINITION. The BOC has no status flags and no condition codes (10_state.md R21). What stands here is the
computation of the contract-violation outputs `cv` and `cvc` (60_exceptions.md R72, R73) from the result of an
evaluation (00_scope.md R12). -/

namespace Sys2Proof.Machine

/-- "`Result` is either `ok y` or `fault ContractViolation(code)`" (R12). -/
inductive EvalResult where
  | ok (y : Data)
  | fault (c : Violation)
  deriving DecidableEq, Repr

/-- The cause codes (R72). -/
def Violation.code : Violation → BitVec 2
  | .reservedOp => 1
  | .bceilRange => 2

/-- `cv`: 1 on a violation, 0 on a legal evaluation (R16, R40, R73). -/
def EvalResult.cv : EvalResult → Bool
  | .ok _ => false
  | .fault _ => true

/-- `cvc`: the cause code, 0 when `cv` = 0 (R16, R72). -/
def EvalResult.cvc : EvalResult → BitVec 2
  | .ok _ => 0
  | .fault c => c.code

end Sys2Proof.Machine
end

