-- ==== Sys2Proof/Machine/Operands.lean ====
section
/-! DEFINITION. Operand and result assembly (30_encoding.md R38 to R40), the reduction of the rotate count
(42_rotate.md R62) and the helper functions of 00_scope.md R13. -/

namespace Sys2Proof.Machine

/-- `xw = x[W-1:0]`; the bits above are ignored (R38). -/
def operand (w : Width) (x : Data) : BitVec w.bits := x.setWidth w.bits

/-- A count result: an integer from 0 to W on `y` (R40). -/
def countResult (n : Nat) : EvalResult := .ok (BitVec.ofNat 64 n)

/-- HSB's result: "`y` = 1 for true and `y` = 0 for false" (R40). -/
def boolResult (b : Bool) : EvalResult := .ok (if b then 1 else 0)

/-- A value result: `y = zext_64(r)` (R40). -/
def valueResult {n : Nat} (r : BitVec n) : EvalResult := .ok (r.setWidth 64)

/-- `m <- s[log2W-1:0]` (R62). -/
def rotateAmount (w : Width) (s : Count) : Nat := (s.extractLsb' 0 w.log2).toNat

/-- `c <- (neg_32(s))[log2W-1:0]`, the width-complement of the count (R62). -/
def rotateComplement (w : Width) (s : Count) : Nat := ((-s).extractLsb' 0 w.log2).toNat

/-- The highest set bit among bits `k-1..0`, 0 if there is none. -/
def hbBelow {n : Nat} (v : BitVec n) : Nat → Nat
  | 0 => 0
  | k + 1 => if v.getLsbD k then k else hbBelow v k

/-- `hb_W(v)`: for v ≠ 0 the index of the highest set bit (R13). -/
def hb {n : Nat} (v : BitVec n) : Nat := hbBelow v n

/-- The lowest set bit from bit `i` up, looking at `fuel` bits; `i + fuel` if there is none. -/
def lbFrom {n : Nat} (v : BitVec n) : (fuel i : Nat) → Nat
  | 0, i => i
  | fuel + 1, i => if v.getLsbD i then i else lbFrom v fuel (i + 1)

/-- `lb_W(v)`: for v ≠ 0 the index of the lowest set bit (R13). -/
def lb {n : Nat} (v : BitVec n) : Nat := lbFrom v n 0

/-- The number of set bits among bits `k-1..0`: R60's loop `n <- n + xw[i]`. -/
def onesBelow {n : Nat} (v : BitVec n) : Nat → Nat
  | 0 => 0
  | k + 1 => onesBelow v k + (v.getLsbD k).toNat

/-- `ones(v)`: the number of set bits (R13). -/
def ones {n : Nat} (v : BitVec n) : Nat := onesBelow v n

end Sys2Proof.Machine
end

