-- ==== Sys2Proof/Machine/Ops.lean ====
section
/-! DEFINITION. The named operations on the ports and on the host's lists: driving the inputs, driving the outputs,
raising a contract violation (the one exception of the BOC, 60_exceptions.md R71 to R74; it has no trap entry and no
return, R79, R80), sampling a result (70_reset_and_hazards.md R91) and resolving a value of a host program (R96). -/

namespace Sys2Proof.Machine

/-- What a step or a meaning answers. -/
abbrev StepResult := Host.Outcome State Fault Refusal

/-- `raise ContractViolation(code)`: a model treats it as a fault (R11, R74). No state is saved and no control is
transferred (R79). -/
def raise (c : Violation) : StepResult := .fault (.contractViolation c)

/-- `y <- r; cv <- 0; cvc <- 0`: the outputs of a legal evaluation (R11, R40). -/
def State.deliver (st : State) (r : Data) : State := { st with y := r, cv := false, cvc := 0 }

/-- Put the result of an evaluation on the outputs (R12, R74). -/
def State.settle (st : State) : EvalResult → StepResult
  | .ok r => .next (st.deliver r)
  | .fault c => raise c

/-- The host drives all three inputs at once (R15, R91). -/
def State.drive (st : State) (opw : Opw) (x : Data) (s : Count) : State :=
  { st with opw := opw, x := x, s := s, driven := true }

/-- The first line of the program has been taken up; `rest` is left. -/
def State.advance (st : State) (rest : List HostItem) : State := { st with pending := rest }

/-- The host samples `y` as the result of this issue (R91, R96). -/
def State.sample (st : State) : State := { st with results := st.results ++ [st.y] }

/-- The host records the value of a host step (R96). -/
def State.recordHost (st : State) (v : Data) : State := { st with hostVals := st.hostVals ++ [v] }

/-- The host samples after a legal evaluation; a fault has no result (R74). -/
def sampled : StepResult → StepResult
  | .next t => .next t.sample
  | .fault f => .fault f
  | .refused r => .refused r

/-- The value a source names, where the results `ys` and the host values `hs` exist; none where it names no value
(R96). -/
def resolve (ys hs : List Data) : Source → Option Data
  | .lit v => some v
  | .result j => ys[j]?
  | .host j => hs[j]?

/-- The values of the three ports for one issue. A value is driven on a narrower port by its low bits
(DESIGN CHOICE, log 5). -/
def presented (ys hs : List Data) (k : Issue) : Option (Opw × Data × Count) :=
  match resolve ys hs k.opw, resolve ys hs k.x, resolve ys hs k.s with
  | some o, some x, some s => some (o.setWidth 6, x, s.setWidth 32)
  | _, _, _ => none

end Sys2Proof.Machine
end

