-- ==== Sys2Proof/Machine/PopCount.lean ====
section
/-! DEFINITION. The population-count unit (41_popcount.md R60, R61): POPC, and the adder tree that R61 gives as the
reference structure. -/

namespace Sys2Proof.Machine

/-- POPC's result: R60's sum of the bits of `xw`. -/
def evalPopc (w : Width) (x : Data) : EvalResult := countResult (ones (operand w x))

/-- POPC (R60). -/
def execPopc (w : Width) (st : State) : StepResult := st.settle (evalPopc w st.x)

/-- One level of the adder tree: adjacent fields are added in pairs (R61). A 2^j-bit field holds at most 2^j, so no
sum leaves its field, and the fields are kept as numbers. -/
def pairSums : List Nat → List Nat
  | a :: b :: rest => (a + b) :: pairSums rest
  | short => short

/-- The tree after `levels` levels. -/
def adderLevels : Nat → List Nat → List Nat
  | 0, fields => fields
  | levels + 1, fields => adderLevels levels (pairSums fields)

/-- The bits `xw[0], xw[1], ...` as one-bit fields. -/
def bitFields {n : Nat} (v : BitVec n) : List Nat := (List.range n).map fun i => (v.getLsbD i).toNat

/-- R61's reference structure: an adder tree of `log2W` levels over the bits of `xw`, which leaves one field. -/
def popTree (w : Width) (v : BitVec w.bits) : List Nat := adderLevels w.log2 (bitFields v)

end Sys2Proof.Machine
end

