-- ==== Sys2Proof/Machine/ZeroCount.lean ====
section
/-! DEFINITION. The leading- and trailing-zero counters and the modulo-37 decoder (40_zero_count.md R45 to R59):
CLZ, CLO, CTZ, CTO. -/

namespace Sys2Proof.Machine

/-- The five stages of the 32-bit smear (R45). -/
def smear32 (v : BitVec 32) : BitVec 32 :=
  let v := v ||| (v >>> 1)
  let v := v ||| (v >>> 2)
  let v := v ||| (v >>> 4)
  let v := v ||| (v >>> 8)
  v ||| (v >>> 16)

/-- The six stages of the 64-bit smear (R45). -/
def smear64 (v : BitVec 64) : BitVec 64 :=
  let v := v ||| (v >>> 1)
  let v := v ||| (v >>> 2)
  let v := v ||| (v >>> 4)
  let v := v ||| (v >>> 8)
  let v := v ||| (v >>> 16)
  v ||| (v >>> 32)

/-- The modulo-37 reducer: `v mod 37`, an integer from 0 to 36 (R46). Its type says that no table read is out of
range (R27). -/
def residue37 (v : BitVec 32) : Fin 37 := ⟨v.toNat % 37, Nat.mod_lt _ (by decide)⟩

/-- `LZ_LUT` (R48). The entries 13, 18, 27 and 36 are unused (log 10). -/
def lzLut : Vector Nat 37 := #v[32, 31, 6, 30, 9, 5, 0, 29, 16, 8, 2, 4, 21, 0, 19, 28,
  25, 15, 0, 7, 10, 1, 17, 3, 22, 20, 26, 0, 11, 18, 23, 27, 12, 24, 13, 14, 0]

/-- `TZ_LUT` (R49). The entries 7, 14, 19 and 28 are unused (log 10). -/
def tzLut : Vector Nat 37 := #v[32, 0, 1, 26, 2, 23, 27, 0, 3, 16, 24, 30, 28, 11, 0, 13,
  4, 7, 17, 0, 25, 22, 31, 15, 29, 10, 12, 6, 0, 21, 14, 9, 5, 20, 8, 19, 18]

/-- One read path of the bit-index decoder: the entry of `lut` at the residue of `v` (R50). -/
def lutRead (lut : Vector Nat 37) (v : BitVec 32) : Nat := lut[residue37 v]

/-- `decodeL` (R50). -/
def decodeL (v : BitVec 32) : Nat := lutRead lzLut v

/-- `decodeT` (R50). -/
def decodeT (v : BitVec 32) : Nat := lutRead tzLut v

/-- `neg_32(u) & u`: the lowest set bit alone, 0 for 0 (R52). -/
def lowestBit (u : BitVec 32) : BitVec 32 := -u &&& u

/-- The 32-bit leading-zero kernel (R51). -/
def clz32 (u : BitVec 32) : Nat := decodeL (smear32 u)

/-- The 32-bit trailing-zero kernel (R52). -/
def ctz32 (u : BitVec 32) : Nat := decodeT (lowestBit u)

/-- `hi = xw[63:32]` (R53, R54). -/
def hiHalf (v : BitVec 64) : BitVec 32 := v.extractLsb' 32 32

/-- `lo = xw[31:0]` (R53, R54). -/
def loHalf (v : BitVec 64) : BitVec 32 := v.extractLsb' 0 32

/-- The leading-zero count at each width (R53). -/
def clzW : (w : Width) → BitVec w.bits → Nat
  | .w8, v => clz32 (v.setWidth 32) - 24
  | .w16, v => clz32 (v.setWidth 32) - 16
  | .w32, v => clz32 v
  | .w64, v => if hiHalf v ≠ 0 then clz32 (hiHalf v) else clz32 (loHalf v) + 32

/-- The trailing-zero count at each width, with the sentinel at bit W for 8 and 16 (R54). -/
def ctzW : (w : Width) → BitVec w.bits → Nat
  | .w8, v => ctz32 (v.setWidth 32 ||| 1#32 <<< 8)
  | .w16, v => ctz32 (v.setWidth 32 ||| 1#32 <<< 16)
  | .w32, v => ctz32 v
  | .w64, v => if loHalf v ≠ 0 then ctz32 (loHalf v) else ctz32 (hiHalf v) + 32

/-- CLZ's result (R56). -/
def evalClz (w : Width) (x : Data) : EvalResult := countResult (clzW w (operand w x))

/-- CLO's result; the complement is taken at width W (R57). -/
def evalClo (w : Width) (x : Data) : EvalResult := countResult (clzW w (~~~(operand w x)))

/-- CTZ's result (R58). -/
def evalCtz (w : Width) (x : Data) : EvalResult := countResult (ctzW w (operand w x))

/-- CTO's result; the complement is taken at width W (R59). -/
def evalCto (w : Width) (x : Data) : EvalResult := countResult (ctzW w (~~~(operand w x)))

/-- CLZ (R56). -/
def execClz (w : Width) (st : State) : StepResult := st.settle (evalClz w st.x)

/-- CLO (R57). -/
def execClo (w : Width) (st : State) : StepResult := st.settle (evalClo w st.x)

/-- CTZ (R58). -/
def execCtz (w : Width) (st : State) : StepResult := st.settle (evalCtz w st.x)

/-- CTO (R59). -/
def execCto (w : Width) (st : State) : StepResult := st.settle (evalCto w st.x)

end Sys2Proof.Machine
end

