-- ==== Sys2Proof/Machine/PowerOfTwo.lean ====
section
/-! DEFINITION. The bit-width detector and the power-of-two rounder (43_power_of_two.md R66 to R70): BWID, HSB, BFLOOR,
BCEIL. -/

namespace Sys2Proof.Machine

/-- `W - clzW(xw)` (R66). -/
def bwidW (w : Width) (v : BitVec w.bits) : Nat := w.bits - clzW w v

/-- `(xw != 0) and ((xw & (xw -_W 1)) = 0)` (R67). -/
def hsbW (w : Width) (v : BitVec w.bits) : Bool := decide (v ≠ 0) && decide (v &&& (v - 1) = 0)

/-- 0 for 0, else `1 << (W - clzW(xw) - 1)` at width W (R68). -/
def bfloorW (w : Width) (v : BitVec w.bits) : BitVec w.bits :=
  if v = 0 then 0 else 1 <<< (w.bits - clzW w v - 1)

/-- The precondition BCEIL may violate: `xw > 2^(W-1)` (R69). -/
def bceilOutOfRange (w : Width) (v : BitVec w.bits) : Bool := decide (2 ^ (w.bits - 1) < v.toNat)

/-- `t <- smear32(v -_32 1); t +_32 1`: five stages (R69). -/
def roundUp32 (v : BitVec 32) : BitVec 32 := smear32 (v - 1) + 1

/-- `t <- smear64(xw -_64 1); t +_64 1`: six stages (R69). -/
def roundUp64 (v : BitVec 64) : BitVec 64 := smear64 (v - 1) + 1

/-- Decrement, smear, increment: at 64 bits for W = 64, else at 32 bits and truncated to W (R69). -/
def bceilW : (w : Width) → BitVec w.bits → BitVec w.bits
  | .w8, v => (roundUp32 (v.setWidth 32)).setWidth 8
  | .w16, v => (roundUp32 (v.setWidth 32)).setWidth 16
  | .w32, v => roundUp32 v
  | .w64, v => roundUp64 v

/-- BWID's result (R66). -/
def evalBwid (w : Width) (x : Data) : EvalResult := countResult (bwidW w (operand w x))

/-- HSB's result (R67). -/
def evalHsb (w : Width) (x : Data) : EvalResult := boolResult (hsbW w (operand w x))

/-- BFLOOR's result (R68). -/
def evalBfloor (w : Width) (x : Data) : EvalResult := valueResult (bfloorW w (operand w x))

/-- BCEIL's result, or its contract violation BCEIL_RANGE (R69). -/
def evalBceil (w : Width) (x : Data) : EvalResult :=
  if bceilOutOfRange w (operand w x) then .fault .bceilRange else valueResult (bceilW w (operand w x))

/-- BWID (R66). -/
def execBwid (w : Width) (st : State) : StepResult := st.settle (evalBwid w st.x)

/-- HSB (R67). -/
def execHsb (w : Width) (st : State) : StepResult := st.settle (evalHsb w st.x)

/-- BFLOOR (R68). -/
def execBfloor (w : Width) (st : State) : StepResult := st.settle (evalBfloor w st.x)

/-- BCEIL (R69). -/
def execBceil (w : Width) (st : State) : StepResult := st.settle (evalBceil w st.x)

end Sys2Proof.Machine
end

