-- ==== Sys2Proof/Machine/Rotate.lean ====
section
/-! DEFINITION. The bitwise rotator (42_rotate.md R62 to R65): ROTL, ROTR. -/

namespace Sys2Proof.Machine

/-- `trunc_W(xw << m) | (xw >> c)`, shifts at width W (R63). -/
def rotlW (w : Width) (v : BitVec w.bits) (s : Count) : BitVec w.bits :=
  v <<< rotateAmount w s ||| v >>> rotateComplement w s

/-- `(xw >> m) | trunc_W(xw << c)` (R64). -/
def rotrW (w : Width) (v : BitVec w.bits) (s : Count) : BitVec w.bits :=
  v >>> rotateAmount w s ||| v <<< rotateComplement w s

/-- ROTL's result (R63). -/
def evalRotl (w : Width) (x : Data) (s : Count) : EvalResult := valueResult (rotlW w (operand w x) s)

/-- ROTR's result (R64). -/
def evalRotr (w : Width) (x : Data) (s : Count) : EvalResult := valueResult (rotrW w (operand w x) s)

/-- ROTL (R63). -/
def execRotl (w : Width) (st : State) : StepResult := st.settle (evalRotl w st.x st.s)

/-- ROTR (R64). -/
def execRotr (w : Width) (st : State) : StepResult := st.settle (evalRotr w st.x st.s)

end Sys2Proof.Machine
end

