-- ==== Sys2Proof/Machine/Dispatch.lean ====
section
/-! DEFINITION. One arm per operation of opcode_table.json. -/

namespace Sys2Proof.Machine

def exec (i : Instr) (s : State) : Host.Outcome State Fault Refusal :=
  match i with
  | .clz w => Sys2Proof.Machine.execClz w s
  | .clo w => Sys2Proof.Machine.execClo w s
  | .ctz w => Sys2Proof.Machine.execCtz w s
  | .cto w => Sys2Proof.Machine.execCto w s
  | .popc w => Sys2Proof.Machine.execPopc w s
  | .bwid w => Sys2Proof.Machine.execBwid w s
  | .hsb w => Sys2Proof.Machine.execHsb w s
  | .bfloor w => Sys2Proof.Machine.execBfloor w s
  | .bceil w => Sys2Proof.Machine.execBceil w s
  | .rotl w => Sys2Proof.Machine.execRotl w s
  | .rotr w => Sys2Proof.Machine.execRotr w s

end Sys2Proof.Machine
end

