-- ==== Sys2Proof/Machine/Issue.lean ====
section
/-! DEFINITION. What one line of a host program does (70_reset_and_hazards.md R91, R96). -/

namespace Sys2Proof.Machine

/-- Evaluate what is on the input ports: the decoder picks the operation, a reserved code is a contract violation
(R37). -/
def evaluate (st : State) : StepResult :=
  match decode st.opw with
  | .error _ => raise .reservedOp
  | .ok i => exec i st

/-- One issue, whose successors in the program are `rest`: drive, evaluate, sample (R91). An issue that names a value
that does not exist is refused (log 7). -/
def runIssue (k : Issue) (rest : List HostItem) (st : State) : StepResult :=
  match presented st.results st.hostVals k with
  | none => .refused .danglingReference
  | some (opw, x, s) => sampled (evaluate ((st.advance rest).drive opw x s))

/-- One host step: "not a BOC evaluation" (R96), so the ports stand as they are. -/
def runHostStep (v : Data) (rest : List HostItem) (st : State) : StepResult :=
  .next ((st.advance rest).recordHost v)

/-- One line. -/
def runItem (item : HostItem) (rest : List HostItem) (st : State) : StepResult :=
  match item with
  | .issue k => runIssue k rest st
  | .hostStep v => runHostStep v rest st

/-- Nothing is pending: the program has ended normally and the state is its end state (R96; log 6). -/
def idle (st : State) : StepResult := .next st

/-- The issue that drives the word `w` on `opw` and leaves `x` and `s` at the values they have. -/
def wordIssue (st : State) (w : Nat) : Issue where
  opw := .lit (BitVec.ofNat 64 w)
  x := .lit st.x
  s := .lit (st.s.setWidth 64)

end Sys2Proof.Machine
end

