-- ==== Sys2Proof/Machine/Step.lean ====
section
/-! DEFINITION. One step: the next line of the host program (70_reset_and_hazards.md R96). The BOC has no program
counter and fetches nothing (10_state.md R20): the operation comes in on `opw`. -/

namespace Sys2Proof.Machine

/-- One step. -/
def step (st : State) : Host.Outcome State Fault Refusal :=
  match st.pending with
  | [] => idle st
  | item :: rest => runItem item rest st

/-- `st` with the word `w` (of `nbits` bits) as the host's next issue, on the operand and the count that stand on the
ports (log 3). -/
def State.withFetchWord (st : State) (nbits w : Nat) : State :=
  { st with pending := .issue (wordIssue st (w % 2 ^ nbits)) :: st.pending }

/-- `st` with the host program `p` to run next (R96; log 3). DESIGN CHOICE: R96 numbers the issues of a program from 0 and
does not speak of a second program. The lists of results and host values are kept, so that in `p` the names `y<j>` and
`h<j>` count on from the values that exist already, and `p` is put in front of what is pending (log 16). -/
def State.load (st : State) (p : List HostItem) : State := { st with pending := p ++ st.pending }

end Sys2Proof.Machine
end

