-- ==== Sys2Proof/Machine/Assembler.lean ====
section
/-! DEFINITION. The assembler syntax of 30_encoding.md R43: one issue as a line of text, its reading and its writing,
and the encoded form `opw=0x.. x=0x.. s=..`. Text is a list of characters. -/

namespace Sys2Proof.Machine

/-- A line of text. -/
abbrev Text := List Char

/-- The mnemonics, in lower case (R43), in the order of the codes (R36). -/
def mnemonicTable : List (Text × (Width → Instr)) := [
  (['c', 'l', 'z'], .clz),
  (['c', 'l', 'o'], .clo),
  (['c', 't', 'z'], .ctz),
  (['c', 't', 'o'], .cto),
  (['p', 'o', 'p', 'c'], .popc),
  (['b', 'w', 'i', 'd'], .bwid),
  (['h', 's', 'b'], .hsb),
  (['b', 'f', 'l', 'o', 'o', 'r'], .bfloor),
  (['b', 'c', 'e', 'i', 'l'], .bceil),
  (['r', 'o', 't', 'l'], .rotl),
  (['r', 'o', 't', 'r'], .rotr)]

/-- The mnemonic of an operation (R43). -/
def mnemonic : Instr → Text
  | .clz _ => ['c', 'l', 'z']
  | .clo _ => ['c', 'l', 'o']
  | .ctz _ => ['c', 't', 'z']
  | .cto _ => ['c', 't', 'o']
  | .popc _ => ['p', 'o', 'p', 'c']
  | .bwid _ => ['b', 'w', 'i', 'd']
  | .hsb _ => ['h', 's', 'b']
  | .bfloor _ => ['b', 'f', 'l', 'o', 'o', 'r']
  | .bceil _ => ['b', 'c', 'e', 'i', 'l']
  | .rotl _ => ['r', 'o', 't', 'l']
  | .rotr _ => ['r', 'o', 't', 'r']

/-- The text before the first `c`, and the text after it (empty if there is no `c`). -/
def cut (c : Char) : Text → Text × Text
  | [] => ([], [])
  | d :: rest => if d = c then ([], rest) else (d :: (cut c rest).1, (cut c rest).2)

/-- The value of a digit in a base up to 16; capitals and small letters alike (log 11). -/
def digitValue (base : Nat) (c : Char) : Option Nat :=
  let n := c.toNat
  let v :=
    if 48 ≤ n ∧ n ≤ 57 then n - 48
    else if 97 ≤ n ∧ n ≤ 102 then n - 87
    else if 65 ≤ n ∧ n ≤ 70 then n - 55
    else 16
  if v < base then some v else none

/-- The digits that are left, after digits of value `acc`. -/
def readDigits (base : Nat) : (acc : Nat) → Text → Option Nat
  | acc, [] => some acc
  | acc, c :: rest =>
    match digitValue base c with
    | some d => readDigits base (acc * base + d) rest
    | none => none

/-- A number in a base: at least one digit. -/
def readNumber (base : Nat) : Text → Option Nat
  | [] => none
  | c :: rest => readDigits base 0 (c :: rest)

/-- An unsigned literal: hexadecimal after `0x`, else decimal (R43). -/
def readUnsigned : Text → Option Nat
  | '0' :: 'x' :: rest => readNumber 16 rest
  | t => readNumber 10 t

/-- A signed decimal literal (R43): digits, or `-` and digits. DESIGN CHOICE: R43 does not say whether a plus sign may
stand; `+3` is refused (log 11). -/
def readSigned : Text → Option Int
  | '-' :: rest => (readNumber 10 rest).map fun n => -(n : Int)
  | t => (readNumber 10 t).map fun n => (n : Int)

/-- `<x>`: an unsigned literal of at most 64 bits, or `y<k>`, or `h<k>` (R43). -/
def readX : Text → Option Source
  | 'y' :: rest => (readNumber 10 rest).map .result
  | 'h' :: rest => (readNumber 10 rest).map .host
  | t =>
    match readUnsigned t with
    | some n => if n < 2 ^ 64 then some (.lit (BitVec.ofNat 64 n)) else none
    | none => none

/-- `<s>`: "a signed decimal literal from -2147483648 to 2147483647" (R43), or `y<k>` or `h<k>` (R96: "Each value is a
literal, the result `y<j>` of an earlier issue ..., or the value `h<j>`"). -/
def readS : Text → Option Source
  | 'y' :: rest => (readNumber 10 rest).map .result
  | 'h' :: rest => (readNumber 10 rest).map .host
  | t =>
    match readSigned t with
    | some n => if -2147483648 ≤ n ∧ n ≤ 2147483647 then some (.lit (BitVec.ofInt 64 n)) else none
    | none => none

/-- `<W>` is `8`, `16`, `32` or `64` (R43); leading zeros are taken (DESIGN CHOICE, log 11). -/
def readWidth (t : Text) : Option Width :=
  match readNumber 10 t with
  | some n => Width.ofNat? n
  | none => none

/-- `<mnemonic>.<W>` (R43). -/
def readOperation (t : Text) : Option Instr :=
  match mnemonicTable.lookup (cut '.' t).1, readWidth (cut '.' t).2 with
  | some mk, some w => some (mk w)
  | _, _ => none

/-- The issue that drives the word of `i`. -/
def issueOf (i : Instr) (x s : Source) : Issue where
  opw := .lit ((encode i).setWidth 64)
  x := x
  s := s

/-- The operands after the operation: `<x>`, or `<x>, <s>` for ROTL and ROTR. Where the syntax has no `<s>`, 0 is
driven on `s` (log 12). -/
def readOperands (i : Instr) (t : Text) : Option Issue :=
  if i.readsCount then
    match readX (cut ',' t).1, (cut ',' t).2 with
    | some x, ' ' :: st => (readS st).map fun s => issueOf i x s
    | _, _ => none
  else (readX t).map fun x => issueOf i x (.lit 0)

/-- One line of assembly (R43). -/
def assemble (line : Text) : Option Issue :=
  match readOperation (cut ' ' line).1 with
  | some i => readOperands i (cut ' ' line).2
  | none => none

/-- `0x` and what follows, as a literal. -/
def readHexLit (bits : Nat) : Text → Option Source
  | '0' :: 'x' :: rest =>
    match readNumber 16 rest with
    | some n => if n < 2 ^ bits then some (.lit (BitVec.ofNat 64 n)) else none
    | none => none
  | _ => none

/-- The value of the field `name=` of the encoded form. -/
def fieldText (name t : Text) : Option Text := if (cut '=' t).1 = name then some (cut '=' t).2 else none

/-- The encoded form of one issue, `opw=0x.. x=0x.. s=..` (R43); 95_test_vectors.md leaves `s` out where it is not
read (log 12); an `s` that stands may be anything `<s>` may be (DESIGN CHOICE, log 11). -/
def readEncoded (line : Text) : Option Issue :=
  let opwText := (cut ' ' line).1
  let rest := (cut ' ' line).2
  let xText := (cut ' ' rest).1
  let sText := (cut ' ' rest).2
  match (fieldText ['o', 'p', 'w'] opwText).bind (readHexLit 6), (fieldText ['x'] xText).bind (readHexLit 64) with
  | some opw, some x =>
    if sText = [] then some ⟨opw, x, .lit 0⟩
    else ((fieldText ['s'] sText).bind readS).map fun s => ⟨opw, x, s⟩
  | _, _ => none

/-- The digit of a value below 16, small letters. -/
def digitChar (d : Nat) : Char := if d < 10 then Char.ofNat (48 + d) else Char.ofNat (87 + d)

/-- `k` digits of `n` in a base, the most significant first. -/
def writeDigits (base : Nat) : (k n : Nat) → Text
  | 0, _ => []
  | k + 1, n => writeDigits base k (n / base) ++ [digitChar (n % base)]

/-- A 64-bit literal, as `0x` and 16 digits. -/
def writeX (x : Data) : Text := '0' :: 'x' :: writeDigits 16 16 x.toNat

/-- A count, as a signed decimal number of 10 digits. -/
def writeS (s : Count) : Text :=
  if s.msb then '-' :: writeDigits 10 10 (-s).toNat else writeDigits 10 10 s.toNat

/-- `<W>`. -/
def writeWidth : Width → Text
  | .w8 => ['8']
  | .w16 => ['1', '6']
  | .w32 => ['3', '2']
  | .w64 => ['6', '4']

/-- An issue of `i` on literal operands, as a line of assembly (R43). -/
def writeLine (i : Instr) (x : Data) (s : Count) : Text :=
  mnemonic i ++ '.' :: writeWidth i.width ++ ' ' :: writeX x ++ (if i.readsCount then ',' :: ' ' :: writeS s else [])

end Sys2Proof.Machine
end

