-- ==== Sys2Proof/Machine/Eval.lean ====
section
/-! DEFINITION. `eval : OPW -> Bits64 -> Bits32 -> Result` (00_scope.md R12), and the pins it drives (10_state.md R16,
R17; 60_exceptions.md R73): the BOC seen as a combinational unit, with no state. -/

namespace Sys2Proof.Machine

/-- The result of one operation on the values of the ports `x` and `s`. -/
def evalInstr : Instr → Data → Count → EvalResult
  | .clz w, x, _ => evalClz w x
  | .clo w, x, _ => evalClo w x
  | .ctz w, x, _ => evalCtz w x
  | .cto w, x, _ => evalCto w x
  | .popc w, x, _ => evalPopc w x
  | .bwid w, x, _ => evalBwid w x
  | .hsb w, x, _ => evalHsb w x
  | .bfloor w, x, _ => evalBfloor w x
  | .bceil w, x, _ => evalBceil w x
  | .rotl w, x, s => evalRotl w x s
  | .rotr w, x, s => evalRotr w x s

/-- `eval` (R12). The reserved codes are checked first, then the range of BCEIL (R78). -/
def eval (opw : Opw) (x : Data) (s : Count) : EvalResult :=
  match decode opw with
  | .error _ => .fault .reservedOp
  | .ok i => evalInstr i x s

/-- The output ports (R16). -/
structure Pins where
  y : Data
  cv : Bool
  cvc : BitVec 2
  deriving DecidableEq, Repr

/-- `y` for the result of an evaluation; on a violation it is unspecified (R73), a free value (log 8). -/
def resultY (opw : Opw) (x : Data) (s : Count) : EvalResult → Data
  | .ok y => y
  | .fault _ => Config.violationY opw x s

/-- The settled outputs: a function of the current inputs alone (R17). -/
def pins (opw : Opw) (x : Data) (s : Count) : Pins where
  y := resultY opw x s (eval opw x s)
  cv := (eval opw x s).cv
  cvc := (eval opw x s).cvc

/-- What the sample with number `n` shows when the inputs have been `held` stable that long; `none` where an input is
undriven. Before `T_eval`, or undriven, it is an arbitrary value (R24, R89, R91; log 9). -/
def sampleAt (n held : Nat) : Option (Opw × Data × Count) → Pins
  | none => ⟨Config.unsettledY n, Config.unsettledCv n, Config.unsettledCvc n⟩
  | some (opw, x, s) =>
    if Config.tEval ≤ held then pins opw x s
    else ⟨Config.unsettledY n, Config.unsettledCv n, Config.unsettledCvc n⟩

/-- The inputs on the ports of a state, if they have been driven (R24, R89). -/
def State.inputs (st : State) : Option (Opw × Data × Count) :=
  if st.driven then some (st.opw, st.x, st.s) else none

end Sys2Proof.Machine
end

