-- ==== Sys2Proof/Safety.lean ====
section
/-! DEFINITION. What claims are stated in: the invariant of the ports and of the program, and the end of a host program
as 70_reset_and_hazards.md R96 defines it. -/

namespace Sys2Proof.Safety

open Sys2Proof.Machine

/-- The leading-zero count by its plain definition (00_scope.md section 6; R55): W for zero, else `W - 1 - hb`. -/
def plainClz {n : Nat} (v : BitVec n) : Nat := if v = 0 then n else n - 1 - hb v

/-- The trailing-zero count by its plain definition (00_scope.md section 6; R55): W for zero, else `lb`. -/
def plainCtz {n : Nat} (v : BitVec n) : Nat := if v = 0 then n else lb v

/-- An issue on literal values of the three ports. -/
def literalIssue (e : Opw × Data × Count) : HostItem :=
  .issue ⟨.lit (e.1.setWidth 64), .lit e.2.1, .lit (e.2.2.setWidth 64)⟩

/-- The outputs are `eval` of the inputs that are driven (R17, R24). -/
def OutputsSettled (st : State) : Prop :=
  st.driven = true → (⟨st.y, st.cv, st.cvc⟩ : Pins) = pins st.opw st.x st.s

/-- Every reference left in the program names a value that will exist when it is needed (R96). -/
def ReferencesExist (st : State) : Prop := programWf st.results.length st.hostVals.length st.pending = true

/-- The invariant of a step. -/
def GoodState (st : State) : Prop := OutputsSettled st ∧ ReferencesExist st

/-- How a host program ends (R96): normally with the lists of results and host values, or in the fault of the first
issue that violates the contract; `dangling` is no end of R96's, but the refusal of a program outside its definition. -/
inductive ProgramEnd where
  | normal (ys hs : List Data)
  | fault (c : Violation)
  | dangling
  deriving DecidableEq, Repr

/-- R96 read as a function of the program alone: `ys` and `hs` are the values so far. No port and no machine state
takes part in it, only `eval` (R12). -/
def programEnd : (ys hs : List Data) → List HostItem → ProgramEnd
  | ys, hs, [] => .normal ys hs
  | ys, hs, .hostStep v :: rest => programEnd ys (hs ++ [v]) rest
  | ys, hs, .issue k :: rest =>
    match presented ys hs k with
    | none => .dangling
    | some (opw, x, s) =>
      match eval opw x s with
      | .ok y => programEnd (ys ++ [y]) hs rest
      | .fault c => .fault c

/-- `n` steps of the machine, stopping at the first fault or refusal. -/
def run (n : Nat) (st : State) : StepResult := Host.Core.run Sys2Proof.core n st

/-- The outcome of a run is the end `e` of a program. -/
def EndsAs (o : StepResult) : ProgramEnd → Prop
  | .normal ys hs => ∃ t, o = .next t ∧ t.pending = [] ∧ t.results = ys ∧ t.hostVals = hs
  | .fault c => o = .fault (.contractViolation c)
  | .dangling => o = .refused .danglingReference

end Sys2Proof.Safety
end

