-- ==== Sys2Proof/Certificates/Slice0/Obligations.lean ====
section
/-! DEFINITION. The statements for the provers. In each, `st.x.setWidth w.bits` is R38's `xw = x[W-1:0]`. -/

open Sys2Proof Sys2Proof.Machine Sys2Proof.Safety

/-! ### Encoding -/

/-- A word decodes to an operation exactly when it is that operation's word (R34 to R36): both directions of the round
trip, for every operation at every width. -/
def Obligations.DecodeAndEncodeAgree : Prop :=
  ∀ (opw : Opw) (i : Instr), decode opw = .ok i ↔ opw = encode i

/-- R35: `wsel` selects the width; each row of its table, and no word selects another width. -/
def Obligations.WidthSelectTable : Prop :=
  widthOfWsel 0b00 = .w8 ∧ widthOfWsel 0b01 = .w16 ∧ widthOfWsel 0b10 = .w32 ∧ widthOfWsel 0b11 = .w64 ∧
  (Width.w8.bits = 8 ∧ Width.w16.bits = 16 ∧ Width.w32.bits = 32 ∧ Width.w64.bits = 64) ∧
  (Width.w8.log2 = 3 ∧ Width.w16.log2 = 4 ∧ Width.w32.log2 = 5 ∧ Width.w64.log2 = 6) ∧
  ((BitVec.allOnes Width.w8.bits).toNat = 0xFF ∧ (BitVec.allOnes Width.w16.bits).toNat = 0xFFFF ∧
    (BitVec.allOnes Width.w32.bits).toNat = 0xFFFFFFFF ∧ (BitVec.allOnes Width.w64.bits).toNat = 0xFFFFFFFFFFFFFFFF) ∧
  ∀ (opw : Opw) (i : Instr), decode opw = .ok i → i.width = widthOfWsel (opw.extractLsb' 4 2)

/-- R36: the operation code of each mnemonic, at every `wsel`, and the column 'reads s': ROTL and ROTR and no other. -/
def Obligations.OpcodeMap : Prop :=
  (∀ wsel : BitVec 2,
    decode (wsel ++ 0b0000#4) = .ok (.clz (widthOfWsel wsel)) ∧
    decode (wsel ++ 0b0001#4) = .ok (.clo (widthOfWsel wsel)) ∧
    decode (wsel ++ 0b0010#4) = .ok (.ctz (widthOfWsel wsel)) ∧
    decode (wsel ++ 0b0011#4) = .ok (.cto (widthOfWsel wsel)) ∧
    decode (wsel ++ 0b0100#4) = .ok (.popc (widthOfWsel wsel)) ∧
    decode (wsel ++ 0b0101#4) = .ok (.bwid (widthOfWsel wsel)) ∧
    decode (wsel ++ 0b0110#4) = .ok (.hsb (widthOfWsel wsel)) ∧
    decode (wsel ++ 0b0111#4) = .ok (.bfloor (widthOfWsel wsel)) ∧
    decode (wsel ++ 0b1000#4) = .ok (.bceil (widthOfWsel wsel)) ∧
    decode (wsel ++ 0b1001#4) = .ok (.rotl (widthOfWsel wsel)) ∧
    decode (wsel ++ 0b1010#4) = .ok (.rotr (widthOfWsel wsel))) ∧
  ∀ i : Instr, i.readsCount = true ↔ ∃ w, i = .rotl w ∨ i = .rotr w

/-- R37: the codes 11 to 15 are reserved at every `wsel`, these 20 words and no others; each raises RESERVED_OP
whatever is on `x` and `s`, and every other word is an operation. -/
def Obligations.ReservedCodesRaiseReservedOp : Prop :=
  (∀ opw : Opw, (opw.extractLsb' 0 4).toNat < 11 → ∃ i, decode opw = .ok i) ∧
  (∀ opw : Opw, 11 ≤ (opw.extractLsb' 0 4).toNat →
    (∀ i, decode opw ≠ .ok i) ∧
    (∀ (x : Data) (s : Count), eval opw x s = .fault .reservedOp) ∧
    ∀ st : State, st.opw = opw → evaluate st = .fault (.contractViolation .reservedOp)) ∧
  (∀ opw : Opw, 11 ≤ (opw.extractLsb' 0 4).toNat ↔
    opw ∈ [0x0B#6, 0x0C#6, 0x0D#6, 0x0E#6, 0x0F#6, 0x1B#6, 0x1C#6, 0x1D#6, 0x1E#6, 0x1F#6,
      0x2B#6, 0x2C#6, 0x2D#6, 0x2E#6, 0x2F#6, 0x3B#6, 0x3C#6, 0x3D#6, 0x3E#6, 0x3F#6])

/-- Words written out from R34 to R36: R36's three examples, and one more of each family. -/
def Obligations.SpecWordsDecode : Prop :=
  decode 0x20 = .ok (.clz .w32) ∧ decode 0x32 = .ok (.ctz .w64) ∧ decode 0x09 = .ok (.rotl .w8) ∧
  decode 0b010100 = .ok (.popc .w16) ∧ decode 0b111000 = .ok (.bceil .w64) ∧ decode 0b000110 = .ok (.hsb .w8)

/-- R76: a width is built from 8, 16, 32 and 64 and from no other number. -/
def Obligations.OnlyFourWidthsAreBuilt : Prop :=
  ∀ (n : Nat) (w : Width), Width.ofNat? n = some w ↔ n = w.bits

/-! ### The operations: result, outputs, completion and frame -/

/-- R56: CLZ. Its words, its result with the outputs `cv` and `cvc` at 0 and everything else as it was, the corner
cases and the example. -/
def Obligations.ClzResult : Prop :=
  (∀ wsel : BitVec 2, decode (wsel ++ 0b0000#4) = .ok (.clz (widthOfWsel wsel))) ∧
  (∀ (w : Width) (st : State), exec (.clz w) st =
    .next { st with y := BitVec.ofNat 64 (plainClz (st.x.setWidth w.bits)), cv := false, cvc := 0 }) ∧
  (∀ (w : Width) (st : State), st.x.setWidth w.bits = 0 → exec (.clz w) st =
    .next { st with y := BitVec.ofNat 64 w.bits, cv := false, cvc := 0 }) ∧
  (∀ (w : Width) (st : State), (st.x.setWidth w.bits).msb = true → exec (.clz w) st =
    .next { st with y := 0, cv := false, cvc := 0 }) ∧
  ∀ st : State, st.x.setWidth 32 = 0x00000001#32 → exec (.clz .w32) st =
    .next { st with y := 31, cv := false, cvc := 0 }

/-- R57: CLO, with the complement at width W. -/
def Obligations.CloResult : Prop :=
  (∀ wsel : BitVec 2, decode (wsel ++ 0b0001#4) = .ok (.clo (widthOfWsel wsel))) ∧
  (∀ (w : Width) (st : State), exec (.clo w) st =
    .next { st with y := BitVec.ofNat 64 (plainClz (~~~(st.x.setWidth w.bits))), cv := false, cvc := 0 }) ∧
  (∀ (w : Width) (st : State), st.x.setWidth w.bits = BitVec.allOnes w.bits → exec (.clo w) st =
    .next { st with y := BitVec.ofNat 64 w.bits, cv := false, cvc := 0 }) ∧
  (∀ (w : Width) (st : State), (st.x.setWidth w.bits).msb = false → exec (.clo w) st =
    .next { st with y := 0, cv := false, cvc := 0 }) ∧
  ∀ st : State, st.x.setWidth 8 = 0xF0#8 → exec (.clo .w8) st =
    .next { st with y := 4, cv := false, cvc := 0 }

/-- R58: CTZ. -/
def Obligations.CtzResult : Prop :=
  (∀ wsel : BitVec 2, decode (wsel ++ 0b0010#4) = .ok (.ctz (widthOfWsel wsel))) ∧
  (∀ (w : Width) (st : State), exec (.ctz w) st =
    .next { st with y := BitVec.ofNat 64 (plainCtz (st.x.setWidth w.bits)), cv := false, cvc := 0 }) ∧
  (∀ (w : Width) (st : State), st.x.setWidth w.bits = 0 → exec (.ctz w) st =
    .next { st with y := BitVec.ofNat 64 w.bits, cv := false, cvc := 0 }) ∧
  (∀ (w : Width) (st : State), st.x.getLsbD 0 = true → exec (.ctz w) st =
    .next { st with y := 0, cv := false, cvc := 0 }) ∧
  (∀ (w : Width) (st : State), (st.x.setWidth w.bits).toNat = 2 ^ (w.bits - 1) → exec (.ctz w) st =
    .next { st with y := BitVec.ofNat 64 (w.bits - 1), cv := false, cvc := 0 }) ∧
  ∀ st : State, st.x.setWidth 32 = 0x80000000#32 → exec (.ctz .w32) st =
    .next { st with y := 31, cv := false, cvc := 0 }

/-- R59: CTO, with the complement at width W. -/
def Obligations.CtoResult : Prop :=
  (∀ wsel : BitVec 2, decode (wsel ++ 0b0011#4) = .ok (.cto (widthOfWsel wsel))) ∧
  (∀ (w : Width) (st : State), exec (.cto w) st =
    .next { st with y := BitVec.ofNat 64 (plainCtz (~~~(st.x.setWidth w.bits))), cv := false, cvc := 0 }) ∧
  (∀ (w : Width) (st : State), st.x.setWidth w.bits = BitVec.allOnes w.bits → exec (.cto w) st =
    .next { st with y := BitVec.ofNat 64 w.bits, cv := false, cvc := 0 }) ∧
  (∀ (w : Width) (st : State), st.x.getLsbD 0 = false → exec (.cto w) st =
    .next { st with y := 0, cv := false, cvc := 0 }) ∧
  ∀ st : State, st.x.setWidth 16 = 0x00FF#16 → exec (.cto .w16) st =
    .next { st with y := 8, cv := false, cvc := 0 }

/-- R60: POPC. The result is the number of positions below W at which `x` has a 1, so bits at and above W are not
counted. -/
def Obligations.PopcResult : Prop :=
  (∀ wsel : BitVec 2, decode (wsel ++ 0b0100#4) = .ok (.popc (widthOfWsel wsel))) ∧
  (∀ (w : Width) (st : State), exec (.popc w) st =
    .next { st with y := BitVec.ofNat 64 ((List.range w.bits).countP fun i => st.x.getLsbD i),
                    cv := false, cvc := 0 }) ∧
  (∀ (w : Width) (st : State), st.x.setWidth w.bits = 0 → exec (.popc w) st =
    .next { st with y := 0, cv := false, cvc := 0 }) ∧
  (∀ (w : Width) (st : State), st.x.setWidth w.bits = BitVec.allOnes w.bits → exec (.popc w) st =
    .next { st with y := BitVec.ofNat 64 w.bits, cv := false, cvc := 0 }) ∧
  ∀ st : State, st.x.setWidth 32 = 0xFFFFFFFF#32 → exec (.popc .w32) st =
    .next { st with y := 32, cv := false, cvc := 0 }

/-- R66: BWID. 0 for 0, else one more than the index of the highest set bit. -/
def Obligations.BwidResult : Prop :=
  (∀ wsel : BitVec 2, decode (wsel ++ 0b0101#4) = .ok (.bwid (widthOfWsel wsel))) ∧
  (∀ (w : Width) (st : State), exec (.bwid w) st =
    .next { st with y := BitVec.ofNat 64 (w.bits - plainClz (st.x.setWidth w.bits)), cv := false, cvc := 0 }) ∧
  (∀ (w : Width) (st : State), st.x.setWidth w.bits = 0 → exec (.bwid w) st =
    .next { st with y := 0, cv := false, cvc := 0 }) ∧
  (∀ (w : Width) (st : State), st.x.setWidth w.bits ≠ 0 → exec (.bwid w) st =
    .next { st with y := BitVec.ofNat 64 (hb (st.x.setWidth w.bits) + 1), cv := false, cvc := 0 }) ∧
  (∀ (w : Width) (st : State), st.x.setWidth w.bits = 1#w.bits → exec (.bwid w) st =
    .next { st with y := 1, cv := false, cvc := 0 }) ∧
  (∀ (w : Width) (st : State), (st.x.setWidth w.bits).msb = true → exec (.bwid w) st =
    .next { st with y := BitVec.ofNat 64 w.bits, cv := false, cvc := 0 }) ∧
  ∀ st : State, st.x.setWidth 32 = 17#32 → exec (.bwid .w32) st =
    .next { st with y := 5, cv := false, cvc := 0 }

/-- R67: HSB. 1 exactly when one bit of `xw` is set. -/
def Obligations.HsbResult : Prop :=
  (∀ wsel : BitVec 2, decode (wsel ++ 0b0110#4) = .ok (.hsb (widthOfWsel wsel))) ∧
  (∀ (w : Width) (st : State), exec (.hsb w) st =
    .next { st with y := if st.x.setWidth w.bits ≠ 0 ∧
                            st.x.setWidth w.bits &&& (st.x.setWidth w.bits - 1#w.bits) = 0 then 1 else 0,
                    cv := false, cvc := 0 }) ∧
  (∀ (w : Width) (st : State), exec (.hsb w) st =
    .next { st with y := if ones (st.x.setWidth w.bits) = 1 then 1 else 0, cv := false, cvc := 0 }) ∧
  (∀ (w : Width) (st : State), st.x.setWidth w.bits = 0 → exec (.hsb w) st =
    .next { st with y := 0, cv := false, cvc := 0 }) ∧
  (∀ (w : Width) (st : State), (st.x.setWidth w.bits).toNat = 2 ^ (w.bits - 1) → exec (.hsb w) st =
    .next { st with y := 1, cv := false, cvc := 0 }) ∧
  (∀ (w : Width) (st : State), st.x.setWidth w.bits = BitVec.allOnes w.bits → exec (.hsb w) st =
    .next { st with y := 0, cv := false, cvc := 0 }) ∧
  ∀ st : State, st.x.setWidth 32 = 64#32 → exec (.hsb .w32) st =
    .next { st with y := 1, cv := false, cvc := 0 }

/-- R68: BFLOOR. 0 for 0, else 2 to the index of the highest set bit; `r <= xw < 2r`. -/
def Obligations.BfloorResult : Prop :=
  (∀ wsel : BitVec 2, decode (wsel ++ 0b0111#4) = .ok (.bfloor (widthOfWsel wsel))) ∧
  (∀ (w : Width) (st : State), st.x.setWidth w.bits = 0 → exec (.bfloor w) st =
    .next { st with y := 0, cv := false, cvc := 0 }) ∧
  (∀ (w : Width) (st : State), st.x.setWidth w.bits ≠ 0 → exec (.bfloor w) st =
    .next { st with y := BitVec.ofNat 64 (2 ^ (w.bits - plainClz (st.x.setWidth w.bits) - 1)),
                    cv := false, cvc := 0 }) ∧
  (∀ (w : Width) (st : State), st.x.setWidth w.bits ≠ 0 →
    ∃ k, k < w.bits ∧ 2 ^ k ≤ (st.x.setWidth w.bits).toNat ∧ (st.x.setWidth w.bits).toNat < 2 * 2 ^ k ∧
      exec (.bfloor w) st = .next { st with y := BitVec.ofNat 64 (2 ^ k), cv := false, cvc := 0 }) ∧
  (∀ (w : Width) (st : State) (k : Nat), k < w.bits → (st.x.setWidth w.bits).toNat = 2 ^ k → exec (.bfloor w) st =
    .next { st with y := BitVec.ofNat 64 (2 ^ k), cv := false, cvc := 0 }) ∧
  (∀ (w : Width) (st : State), st.x.setWidth w.bits = BitVec.allOnes w.bits → exec (.bfloor w) st =
    .next { st with y := BitVec.ofNat 64 (2 ^ (w.bits - 1)), cv := false, cvc := 0 }) ∧
  ∀ st : State, st.x.setWidth 32 = 17#32 → exec (.bfloor .w32) st =
    .next { st with y := 16, cv := false, cvc := 0 }

/-- R69: BCEIL on a legal operand gives the smallest power of two not below it, 0 for 0; above `2^(W-1)` it is the
contract violation BCEIL_RANGE. On a legal operand the result is decrement, smear, increment (64 bits for W = 64, else 32
bits truncated to W). -/
def Obligations.BceilResult : Prop :=
  (∀ wsel : BitVec 2, decode (wsel ++ 0b1000#4) = .ok (.bceil (widthOfWsel wsel))) ∧
  (∀ (w : Width) (st : State), 2 ^ (w.bits - 1) < (st.x.setWidth w.bits).toNat →
    exec (.bceil w) st = .fault (.contractViolation .bceilRange)) ∧
  (∀ (w : Width) (st : State), st.x.setWidth w.bits = 0 → exec (.bceil w) st =
    .next { st with y := 0, cv := false, cvc := 0 }) ∧
  (∀ (w : Width) (st : State), 1 ≤ (st.x.setWidth w.bits).toNat →
    (st.x.setWidth w.bits).toNat ≤ 2 ^ (w.bits - 1) →
    ∃ k, k < w.bits ∧ (st.x.setWidth w.bits).toNat ≤ 2 ^ k ∧
      (∀ j, (st.x.setWidth w.bits).toNat ≤ 2 ^ j → 2 ^ k ≤ 2 ^ j) ∧
      exec (.bceil w) st = .next { st with y := BitVec.ofNat 64 (2 ^ k), cv := false, cvc := 0 }) ∧
  (∀ (w : Width) (st : State) (k : Nat), k < w.bits → (st.x.setWidth w.bits).toNat = 2 ^ k → exec (.bceil w) st =
    .next { st with y := BitVec.ofNat 64 (2 ^ k), cv := false, cvc := 0 }) ∧
  (∀ (w : Width) (st : State), (st.x.setWidth w.bits).toNat ≤ 2 ^ (w.bits - 1) →
    exec (.bceil w) st = .next { st with
      y := if w = .w64 then smear64 (st.x - 1#64) + 1#64
           else ((smear32 ((st.x.setWidth w.bits).setWidth 32 - 1#32) + 1#32).setWidth w.bits).setWidth 64,
      cv := false, cvc := 0 }) ∧
  ∀ st : State, st.x.setWidth 32 = 17#32 → exec (.bceil .w32) st =
    .next { st with y := 32, cv := false, cvc := 0 }

/-- R63: ROTL. Bit `i` of the result is `xw[(i - m) mod W]`, with `m = s mod W` floored; above W the result is 0. -/
def Obligations.RotlResult : Prop :=
  (∀ wsel : BitVec 2, decode (wsel ++ 0b1001#4) = .ok (.rotl (widthOfWsel wsel))) ∧
  (∀ (w : Width) (st : State), ∃ y : Data,
    exec (.rotl w) st = .next { st with y := y, cv := false, cvc := 0 } ∧
    ∀ i, y.getLsbD i = (decide (i < w.bits) && st.x.getLsbD (((i : Int) - st.s.toInt) % (w.bits : Int)).toNat)) ∧
  (∀ (w : Width) (st : State), ∃ m c : Nat, m < w.bits ∧ c < w.bits ∧
    (m : Int) = st.s.toInt % (w.bits : Int) ∧ c = (w.bits - m) % w.bits ∧
    exec (.rotl w) st = .next { st with
      y := (st.x.setWidth w.bits <<< m ||| st.x.setWidth w.bits >>> c).setWidth 64, cv := false, cvc := 0 }) ∧
  (∀ (w : Width) (st : State), (st.s.toInt % (w.bits : Int) = 0 ∨ st.x.setWidth w.bits = 0 ∨
      st.x.setWidth w.bits = BitVec.allOnes w.bits) →
    exec (.rotl w) st = .next { st with y := (st.x.setWidth w.bits).setWidth 64, cv := false, cvc := 0 }) ∧
  ∀ st : State, st.x.setWidth 32 = 0x80000000#32 → st.s = 1 → exec (.rotl .w32) st =
    .next { st with y := 0x00000001, cv := false, cvc := 0 }

/-- R64: ROTR. Bit `i` of the result is `xw[(i + m) mod W]`; above W the result is 0. -/
def Obligations.RotrResult : Prop :=
  (∀ wsel : BitVec 2, decode (wsel ++ 0b1010#4) = .ok (.rotr (widthOfWsel wsel))) ∧
  (∀ (w : Width) (st : State), ∃ y : Data,
    exec (.rotr w) st = .next { st with y := y, cv := false, cvc := 0 } ∧
    ∀ i, y.getLsbD i = (decide (i < w.bits) && st.x.getLsbD (((i : Int) + st.s.toInt) % (w.bits : Int)).toNat)) ∧
  (∀ (w : Width) (st : State), ∃ m c : Nat, m < w.bits ∧ c < w.bits ∧
    (m : Int) = st.s.toInt % (w.bits : Int) ∧ c = (w.bits - m) % w.bits ∧
    exec (.rotr w) st = .next { st with
      y := (st.x.setWidth w.bits >>> m ||| st.x.setWidth w.bits <<< c).setWidth 64, cv := false, cvc := 0 }) ∧
  (∀ (w : Width) (st : State), (st.s.toInt % (w.bits : Int) = 0 ∨ st.x.setWidth w.bits = 0 ∨
      st.x.setWidth w.bits = BitVec.allOnes w.bits) →
    exec (.rotr w) st = .next { st with y := (st.x.setWidth w.bits).setWidth 64, cv := false, cvc := 0 }) ∧
  (∀ (w : Width) (st : State), ∃ y : Data, exec (.rotr w) st = .next { st with y := y, cv := false, cvc := 0 } ∧
    exec (.rotl w) { st with s := -st.s } = .next { st with s := -st.s, y := y, cv := false, cvc := 0 }) ∧
  ∀ st : State, st.x.setWidth 8 = 0x01#8 → st.s = 1 → exec (.rotr .w8) st =
    .next { st with y := 0x80, cv := false, cvc := 0 }

/-- Frame (R12, R14: an evaluation "writes nothing else"): an operation changes the output ports only, and leaves both
violation outputs at 0. -/
def Obligations.OperationsWriteOnlyTheOutputs : Prop :=
  ∀ (i : Instr) (st t : State), exec i st = .next t →
    t.opw = st.opw ∧ t.x = st.x ∧ t.s = st.s ∧ t.driven = st.driven ∧ t.pending = st.pending ∧
    t.results = st.results ∧ t.hostVals = st.hostVals ∧ t.cv = false ∧ t.cvc = 0

/-- R40: the form of the results. Counts are 0 to W, HSB gives 0 or 1, values have W bits; `cv` and `cvc` are 0. -/
def Obligations.ResultForms : Prop :=
  ∀ (w : Width) (st t : State),
    ((exec (.clz w) st = .next t ∨ exec (.clo w) st = .next t ∨ exec (.ctz w) st = .next t ∨
      exec (.cto w) st = .next t ∨ exec (.popc w) st = .next t ∨ exec (.bwid w) st = .next t) →
      t.y.toNat ≤ w.bits ∧ t.y.extractLsb' 7 57 = 0 ∧ t.cv = false ∧ t.cvc = 0) ∧
    (exec (.hsb w) st = .next t → (t.y = 0 ∨ t.y = 1) ∧ t.cv = false ∧ t.cvc = 0) ∧
    ((exec (.bfloor w) st = .next t ∨ exec (.bceil w) st = .next t ∨ exec (.rotl w) st = .next t ∨
      exec (.rotr w) st = .next t) →
      t.y.toNat < 2 ^ w.bits ∧ t.cv = false ∧ t.cvc = 0)

/-- R41 (and R38): an input an operation does not read has no effect: the bits of `x` from W up never, `s` only for
ROTL and ROTR, neither for a reserved code. -/
def Obligations.UnreadInputsHaveNoEffect : Prop :=
  (∀ (i : Instr) (x x' : Data) (s s' : Count), x.setWidth i.width.bits = x'.setWidth i.width.bits →
    ((∃ w, i = .rotl w ∨ i = .rotr w) → s = s') → eval (encode i) x s = eval (encode i) x' s') ∧
  ∀ (opw : Opw) (x x' : Data) (s s' : Count), 11 ≤ (opw.extractLsb' 0 4).toNat → eval opw x s = eval opw x' s'

/-- R75: every operation but BCEIL is total: it raises nothing, whatever is on the ports. -/
def Obligations.OperationsOtherThanBceilAreTotal : Prop :=
  ∀ (i : Instr) (st : State), (∀ w, i ≠ .bceil w) → ∃ t, exec i st = .next t

/-- The only stop of an operation is BCEIL_RANGE, exactly where R69 says, and no operation is refused (R71, R72). -/
def Obligations.OnlyBceilAboveItsRangeFaults : Prop :=
  (∀ (i : Instr) (st : State) (f : Fault), exec i st = .fault f ↔
    f = .contractViolation .bceilRange ∧ ∃ w, i = .bceil w ∧ 2 ^ (w.bits - 1) < (st.x.setWidth w.bits).toNat) ∧
  ∀ (i : Instr) (st : State) (q : Refusal), exec i st ≠ .refused q

/-- R12: an operation puts on the outputs what `eval` gives for its word and the ports `x` and `s`. -/
def Obligations.OperationsFollowEval : Prop :=
  ∀ (i : Instr) (st : State), exec i st =
    match eval (encode i) st.x st.s with
    | .ok y => .next { st with y := y, cv := false, cvc := 0 }
    | .fault c => .fault (.contractViolation c)

/-! ### The pins -/

/-- R72: the cause code on `cvc`. -/
def Obligations.CauseCodes : Prop :=
  ∀ (opw : Opw) (x : Data) (s : Count),
    ((pins opw x s).cvc = 1 ↔ 11 ≤ (opw.extractLsb' 0 4).toNat) ∧
    ((pins opw x s).cvc = 2 ↔ ∃ w : Width, opw = encode (.bceil w) ∧
      2 ^ (w.bits - 1) < (x.setWidth w.bits).toNat) ∧
    (pins opw x s).cvc ≠ 3 ∧ ((pins opw x s).cv = true ↔ (pins opw x s).cvc ≠ 0)

/-- R73, R74: `cv` is 1 exactly when `eval` faults, with the fault's code on `cvc`; on a legal evaluation `y` is the
result and `cv`, `cvc` are 0. Nothing is said of `y` while `cv` is 1: it is the free value of log 8. -/
def Obligations.PinsShowTheEvaluation : Prop :=
  ∀ (opw : Opw) (x : Data) (s : Count),
    (∀ c, eval opw x s = .fault c → (pins opw x s).cv = true ∧
      (pins opw x s).cvc = (match c with | .reservedOp => 1 | .bceilRange => 2)) ∧
    (∀ y, eval opw x s = .ok y → pins opw x s = ⟨y, false, 0⟩)

/-- R91, R95: a sample taken when the inputs have been stable for `T_eval` shows the settled outputs, whichever sample
it is and however much longer the host has waited; in a state whose inputs are driven and whose outputs have settled
those are the state's own output fields. (Earlier samples are free values: log 9.) -/
def Obligations.SamplesAfterTheLatencyAreSettled : Prop :=
  (∀ (n held : Nat) (opw : Opw) (x : Data) (s : Count), Config.tEval ≤ held →
    sampleAt n held (some (opw, x, s)) = pins opw x s) ∧
  ∀ (n held : Nat) (st : State), Config.tEval ≤ held → st.driven = true → OutputsSettled st →
    sampleAt n held st.inputs = ⟨st.y, st.cv, st.cvc⟩

/-! ### The datapath -/

/-- R13: the helper functions. `hb` and `lb` are the highest and the lowest set bit, `ones` counts the set bits. -/
def Obligations.HelperFunctions : Prop :=
  (∀ (w : Width) (v : BitVec w.bits), v ≠ 0 →
    v.getLsbD (hb v) = true ∧ (∀ j, hb v < j → v.getLsbD j = false) ∧
    v.getLsbD (lb v) = true ∧ (∀ j, j < lb v → v.getLsbD j = false)) ∧
  (∀ (w : Width) (v : BitVec w.bits), ones v = (List.range w.bits).countP fun i => v.getLsbD i) ∧
  ∀ w : Width, 2 ^ w.log2 = w.bits

/-- R45: the smear fills every bit below the highest set bit with ones. -/
def Obligations.SmearFillsBelowTheHighestBit : Prop :=
  smear32 0 = 0 ∧ smear64 0 = 0 ∧
  (∀ v : BitVec 32, v ≠ 0 → (smear32 v).toNat = 2 ^ (hb v + 1) - 1) ∧
  (∀ v : BitVec 64, v ≠ 0 → (smear64 v).toNat = 2 ^ (hb v + 1) - 1) ∧
  (∀ v : BitVec 32, ∃ m, m ≤ 32 ∧ (smear32 v).toNat = 2 ^ m - 1)

/-- R46: the reducer gives `v mod 37`, an integer from 0 to 36, for every 32-bit `v`, and takes each of those values. It is
the index at which a read path reads its table. -/
def Obligations.ReducerGivesTheResidue : Prop :=
  (∀ v : BitVec 32, (residue37 v).val = v.toNat % 37 ∧ (residue37 v).val ≤ 36) ∧
  (∀ r, r ≤ 36 → ∃ v : BitVec 32, (residue37 v).val = r) ∧
  (∀ (lut : Vector Nat 37) (v : BitVec 32), lut.toList[v.toNat % 37]? = some (lutRead lut v)) ∧
  ∀ u : BitVec 32, lzLut.toList[(smear32 u).toNat % 37]? = some (clz32 u) ∧
    tzLut.toList[(-u &&& u).toNat % 37]? = some (ctz32 u)

/-- R47: powers of two modulo 37. The rule's table; period 36 and no smaller; each of 1..36 taken once for k in 0..35 and 0
never. The reducer gives the table's entries on the 32-bit powers of two, which are distinct and nonzero, and
`(2^m mod 37) - 1` on the smeared values, which are distinct. -/
def Obligations.PowersOfTwoModulo37 : Prop :=
  ((List.range 36).map fun k => 2 ^ k % 37) = [1, 2, 4, 8, 16, 32, 27, 17, 34, 31, 25, 13, 26, 15, 30, 23, 9, 18, 36, 35,
    33, 29, 21, 5, 10, 20, 3, 6, 12, 24, 11, 22, 7, 14, 28, 19] ∧
  (∀ k, 2 ^ (k + 36) % 37 = 2 ^ k % 37) ∧ (∀ k, k < 36 → 2 ^ k % 37 = 1 → k = 0) ∧
  (∀ k, 2 ^ k % 37 ≠ 0) ∧
  (∀ r, 1 ≤ r → r ≤ 36 → ∃ k, k < 36 ∧ 2 ^ k % 37 = r ∧ ∀ j, j < 36 → 2 ^ j % 37 = r → j = k) ∧
  ((List.range 32).map fun k => (residue37 (BitVec.ofNat 32 (2 ^ k))).val) = [1, 2, 4, 8, 16, 32, 27, 17, 34, 31, 25, 13,
    26, 15, 30, 23, 9, 18, 36, 35, 33, 29, 21, 5, 10, 20, 3, 6, 12, 24, 11, 22] ∧
  (∀ m, m ≤ 32 → (residue37 (BitVec.ofNat 32 (2 ^ m - 1))).val = 2 ^ m % 37 - 1) ∧
  (∀ k j, k < 32 → j < 32 → residue37 (BitVec.ofNat 32 (2 ^ k)) = residue37 (BitVec.ofNat 32 (2 ^ j)) → k = j) ∧
  (∀ k, k < 32 → residue37 (BitVec.ofNat 32 (2 ^ k)) ≠ 0) ∧
  (∀ m n, m ≤ 32 → n ≤ 32 →
    residue37 (BitVec.ofNat 32 (2 ^ m - 1)) = residue37 (BitVec.ofNat 32 (2 ^ n - 1)) → m = n)

/-- R48: LZ_LUT. The entry at `(2^m - 1) mod 37` is `32 - m`; the indices 13, 18, 27 and 36 are reached by no smeared
value and hold 0. -/
def Obligations.LeadingZeroTable : Prop :=
  (∀ m, m ≤ 32 → lutRead lzLut (BitVec.ofNat 32 (2 ^ m - 1)) = 32 - m) ∧
  lzLut.toList = [32, 31, 6, 30, 9, 5, 0, 29, 16, 8, 2, 4, 21, 0, 19, 28, 25, 15, 0, 7, 10, 1, 17, 3, 22, 20, 26, 0,
    11, 18, 23, 27, 12, 24, 13, 14, 0] ∧
  ∀ m, m ≤ 32 → (2 ^ m - 1) % 37 ∉ [13, 18, 27, 36]

/-- R49: TZ_LUT. The entry at `2^k mod 37` is `k`, the entry at 0 is 32; the indices 7, 14, 19 and 28 are reached by no
isolated bit and hold 0; the sentinels are ordinary entries. -/
def Obligations.TrailingZeroTable : Prop :=
  (∀ k, k < 32 → lutRead tzLut (BitVec.ofNat 32 (2 ^ k)) = k) ∧ lutRead tzLut 0 = 32 ∧
  tzLut.toList = [32, 0, 1, 26, 2, 23, 27, 0, 3, 16, 24, 30, 28, 11, 0, 13, 4, 7, 17, 0, 25, 22, 31, 15, 29, 10, 12,
    6, 0, 21, 14, 9, 5, 20, 8, 19, 18] ∧
  (∀ k, k < 32 → 2 ^ k % 37 ∉ [0, 7, 14, 19, 28]) ∧ tzLut[34] = 8 ∧ tzLut[9] = 16

/-- R50, R23: no result depends on the unused entries: any two tables that agree with these on the used indices give
the same kernels. -/
def Obligations.UnusedTableEntriesAreNeverRead : Prop :=
  (∀ (lut : Vector Nat 37), (∀ r : Fin 37, r.val ∉ [13, 18, 27, 36] → lut[r] = lzLut[r]) →
    ∀ u : BitVec 32, lutRead lut (smear32 u) = clz32 u) ∧
  (∀ (lut : Vector Nat 37), (∀ r : Fin 37, r.val ∉ [7, 14, 19, 28] → lut[r] = tzLut[r]) →
    ∀ u : BitVec 32, lutRead lut (-u &&& u) = ctz32 u)

/-- R55: the datapath of R51 to R54 (smear, modulo 37, tables, widening, sentinel, halves) gives the plain leading- and
trailing-zero counts, for every W and every W-bit operand. -/
def Obligations.DatapathGivesThePlainCounts : Prop :=
  ∀ (w : Width) (v : BitVec w.bits),
    (clzW w v = if v = 0 then w.bits else w.bits - 1 - hb v) ∧
    (ctzW w v = if v = 0 then w.bits else lb v)

/-- R61: the adder tree of `log2W` levels leaves one field, and it holds the number of set bits. -/
def Obligations.AdderTreeCountsOnes : Prop :=
  ∀ (w : Width) (v : BitVec w.bits), popTree w v = [ones v]

/-- R62: the two amounts of a count: `m` is `s` modulo W, floored for a negative count, `c` is `(W - m) mod W`; both
are below W, and the count -2^31 gives 0 and 0. -/
def Obligations.RotateAmounts : Prop :=
  (∀ (w : Width) (s : Count),
    (rotateAmount w s : Int) = s.toInt % (w.bits : Int) ∧ rotateAmount w s < w.bits ∧
    rotateComplement w s = (w.bits - rotateAmount w s) % w.bits ∧
    rotateAmount w s = (s &&& BitVec.ofNat 32 (w.bits - 1)).toNat ∧
    rotateComplement w s = (-s &&& BitVec.ofNat 32 (w.bits - 1)).toNat) ∧
  ∀ w : Width, rotateAmount w 0x80000000 = 0 ∧ rotateComplement w 0x80000000 = 0

/-! ### Laws between operations -/

/-- R65: the rotation laws, as evaluations the host chains. -/
def Obligations.RotationLaws : Prop :=
  ∀ (w : Width) (x : Data) (s : Count),
    (∃ r, eval (encode (.rotr w)) x s = .ok r ∧
      eval (encode (.rotl w)) r s = .ok ((x.setWidth w.bits).setWidth 64)) ∧
    eval (encode (.rotl w)) x (BitVec.ofNat 32 w.bits) = .ok ((x.setWidth w.bits).setWidth 64) ∧
    eval (encode (.rotl w)) x 0 = .ok ((x.setWidth w.bits).setWidth 64) ∧
    eval (encode (.rotl w)) x s = eval (encode (.rotr w)) x (-s) ∧
    ∃ r, eval (encode (.rotl w)) x s = .ok r ∧ ones (r.setWidth w.bits) = ones (x.setWidth w.bits)

/-- R70: the laws of the power-of-two family, as evaluations the host makes. -/
def Obligations.PowerOfTwoLaws : Prop :=
  ∀ (w : Width) (x : Data) (s : Count),
    (∃ z b, eval (encode (.clz w)) x s = .ok z ∧ eval (encode (.bwid w)) x s = .ok b ∧
      b.toNat ≤ w.bits ∧ z.toNat = w.bits - b.toNat) ∧
    (eval (encode (.hsb w)) x s = .ok 1 ↔ eval (encode (.popc w)) x s = .ok 1) ∧
    (∃ r, eval (encode (.bfloor w)) x s = .ok r ∧ (x.setWidth w.bits = 0 → r = 0) ∧
      (x.setWidth w.bits ≠ 0 → r.toNat ≤ (x.setWidth w.bits).toNat ∧ (x.setWidth w.bits).toNat < 2 * r.toNat)) ∧
    ((x.setWidth w.bits).toNat ≤ 2 ^ (w.bits - 1) → ∃ r, eval (encode (.bceil w)) x s = .ok r ∧
      (x.setWidth w.bits = 0 → r = 0) ∧
      (x.setWidth w.bits ≠ 0 → (x.setWidth w.bits).toNat ≤ r.toNat ∧ r.toNat / 2 < (x.setWidth w.bits).toNat)) ∧
    (eval (encode (.hsb w)) x s = .ok 1 → eval (encode (.bceil w)) x s = .ok ((x.setWidth w.bits).setWidth 64))

/-! ### The step -/

/-- R91, R96: a step on an issue whose values exist drives the three ports, runs the operation that `opw` decodes to, and
samples `y` as the next result; a fault or a refusal of the operation is the step's. -/
def Obligations.StepRunsTheDecodedOperation : Prop :=
  ∀ (st : State) (k : Issue) (rest : List HostItem) (opw : Opw) (x : Data) (s : Count) (i : Instr),
    st.pending = .issue k :: rest → presented st.results st.hostVals k = some (opw, x, s) → decode opw = .ok i →
    step st =
      match exec i { st with opw := opw, x := x, s := s, driven := true, pending := rest } with
      | .next t => .next { t with results := t.results ++ [t.y] }
      | .fault f => .fault f
      | .refused q => .refused q

/-- R96: a value of an issue is a literal, an earlier result or an earlier host value, on each of the three ports. The low
bits of the value are driven on the narrower ports `opw` and `s` (the model's choice, log 5). A reference to a value that
does not exist, on whichever port, presents nothing (the model's reading, log 7). -/
def Obligations.IssueValues : Prop :=
  ∀ (ys hs : List Data) (a b c v : Data) (j : Nat) (p q : Source),
    presented ys hs ⟨.lit a, .lit b, .lit c⟩ = some (a.setWidth 6, b, c.setWidth 32) ∧
    (ys[j]? = some v →
      presented ys hs ⟨.result j, .lit b, .lit c⟩ = some (v.setWidth 6, b, c.setWidth 32) ∧
      presented ys hs ⟨.lit a, .result j, .lit c⟩ = some (a.setWidth 6, v, c.setWidth 32) ∧
      presented ys hs ⟨.lit a, .lit b, .result j⟩ = some (a.setWidth 6, b, v.setWidth 32)) ∧
    (hs[j]? = some v →
      presented ys hs ⟨.host j, .lit b, .lit c⟩ = some (v.setWidth 6, b, c.setWidth 32) ∧
      presented ys hs ⟨.lit a, .host j, .lit c⟩ = some (a.setWidth 6, v, c.setWidth 32) ∧
      presented ys hs ⟨.lit a, .lit b, .host j⟩ = some (a.setWidth 6, b, v.setWidth 32)) ∧
    (ys.length ≤ j → presented ys hs ⟨.result j, p, q⟩ = none ∧ presented ys hs ⟨p, .result j, q⟩ = none ∧
      presented ys hs ⟨p, q, .result j⟩ = none) ∧
    (hs.length ≤ j → presented ys hs ⟨.host j, p, q⟩ = none ∧ presented ys hs ⟨p, .host j, q⟩ = none ∧
      presented ys hs ⟨p, q, .host j⟩ = none)

/-- R37, R74: a step on an issue of a reserved code faults with RESERVED_OP. -/
def Obligations.StepFaultsOnReservedCode : Prop :=
  ∀ (st : State) (k : Issue) (rest : List HostItem) (opw : Opw) (x : Data) (s : Count),
    st.pending = .issue k :: rest → presented st.results st.hostVals k = some (opw, x, s) →
    11 ≤ (opw.extractLsb' 0 4).toNat → step st = .fault (.contractViolation .reservedOp)

/-- The word of an operation placed as the next issue is read by the decoder and run by the very next step, on the
operand and the count that stand on the ports (the model's way to place a word, log 3). -/
def Obligations.PlacedWordRuns : Prop :=
  ∀ (i : Instr) (st : State),
    decodeTableWord 8 (encode i).toNat = some i ∧
    step (st.withFetchWord 8 (encode i).toNat) = sampled (exec i { st with opw := encode i, driven := true })

/-- R96: a host step is no evaluation: the value is recorded, and the ports and the results stand as they were. (That the
value stands in the program is the model's choice, log 4.) -/
def Obligations.HostStepRecordsItsValue : Prop :=
  ∀ (st : State) (v : Data) (rest : List HostItem), st.pending = .hostStep v :: rest →
    step st = .next { st with pending := rest, hostVals := st.hostVals ++ [v] }

/-- With nothing pending a step leaves the end state as it is (the model's choice, log 6). -/
def Obligations.EndedProgramStands : Prop :=
  ∀ st : State, st.pending = [] → step st = .next st

/-- R93: the result of an evaluation is the same whatever came before: two machines with any ports, results, host values
and program behind them, given the same values on the ports, show the same outputs and the same new result, or the same
fault. -/
def Obligations.EvaluationsForgetThePast : Prop :=
  ∀ (st st' : State) (k k' : Issue) (rest rest' : List HostItem),
    st.pending = .issue k :: rest → st'.pending = .issue k' :: rest' →
    presented st.results st.hostVals k = presented st'.results st'.hostVals k' →
    (∀ f, step st = .fault f ↔ step st' = .fault f) ∧
    (∀ t, step st = .next t → ∃ t', step st' = .next t' ∧ t'.y = t.y ∧ t'.cv = t.cv ∧ t'.cvc = t.cvc ∧
      ∃ r, t.results = st.results ++ [r] ∧ t'.results = st'.results ++ [r])

/-- R17, R24: every step keeps the outputs equal to `eval` of the driven inputs, and the references of the program
resolvable. -/
def Obligations.StepKeepsInvariant : Prop :=
  ∀ st t : State, GoodState st → step st = .next t → GoodState t

/-- The invariant holds after reset (R24, R88, R89), where nothing is driven and nothing is pending, and where a program
that is well formed by R96 is loaded onto an empty one. That nothing is pending at reset, and that a program is loaded from
outside, is the model's choice (log 3), and so is the numbering of `y<j>` and `h<j>` that counts on from the values the
state holds already (log 16); which references are well formed is its reading of R96 (log 7). -/
def Obligations.InvariantAtReset : Prop :=
  GoodState State.reset ∧
  ∀ (st : State) (p : List HostItem), OutputsSettled st → st.pending = [] →
    programWf st.results.length st.hostVals.length p = true → GoodState (st.load p)

/-- Where the references of the program exist (R96), no step is refused: every issue is evaluated. That a reference to a
value that does not exist is refused, and nothing else is, is the model's reading (log 7). -/
def Obligations.WellFormedProgramsAreNeverRefused : Prop :=
  ∀ (st : State) (n : Nat) (q : Refusal), ReferencesExist st → run n st ≠ .refused q

/-- After power-up nothing is driven and no value exists (R24, R88, R89). That no program is pending at reset is the model's
choice: a program is loaded from outside (log 3). Nothing is said of the values on the ports, which R24 leaves
unspecified. -/
def Obligations.ResetHoldsNothing : Prop :=
  State.reset.driven = false ∧ State.reset.pending = [] ∧ State.reset.results = [] ∧ State.reset.hostVals = []

/-- R96: running a program to its end gives the end R96 defines, read off `eval` alone: the list of results, or the fault
of the first issue that violates the contract, and nothing after it runs. For every state and every program. The end
`dangling`, at a reference to a value that does not exist, is the model's reading (log 7); that a host step carries its
value (log 4), that further steps leave the end state (log 6), and that a program put into a state with values counts on
from them (log 16) are its choices. -/
def Obligations.ProgramsRunToTheirEnd : Prop :=
  ∀ (st : State) (n : Nat), st.pending.length ≤ n →
    EndsAs (run n st) (programEnd st.results st.hostVals st.pending)

/-- R30: issuing the same legal evaluations in any order gives the same set of results. That a program put into a state with
results appends to them is the model's choice (log 16). -/
def Obligations.OrderOfEvaluationsDoesNotMatter : Prop :=
  ∀ (st : State) (p q : List (Opw × Data × Count)), p.Perm q →
    (∀ e ∈ p, ∃ y, eval e.1 e.2.1 e.2.2 = .ok y) →
    ∃ t t' ys ys', run p.length { st with pending := p.map literalIssue } = .next t ∧
      run q.length { st with pending := q.map literalIssue } = .next t' ∧
      t.results = st.results ++ ys ∧ t'.results = st.results ++ ys' ∧ ys.Perm ys' ∧ ys.length = p.length

/-! ### The assembler -/

/-- R43: a line of assembly for any operation, on any literal operand and any count, reads back as its issue. That the
line may have leading zeros (log 11) and that 0 is driven on `s` where there is no count (log 12) are the model's choices. -/
def Obligations.AssemblyReadsBack : Prop :=
  ∀ (i : Instr) (x : Data) (s : Count), assemble (writeLine i x s) =
    some ⟨.lit ((encode i).setWidth 64), .lit x, .lit (if i.readsCount then s.signExtend 64 else 0)⟩

/-- R43 on lines of 95_test_vectors.md: literals, an earlier result, an earlier host value, a negative count, and the encoded
form; and, beside them, a width outside R43's four (no line of that file), which is refused. The 0 on `s` in the lines that
give no count is the model's choice (log 12), and not what the spec's tables say. -/
def Obligations.SpecLinesAssemble : Prop :=
  assemble "clz.32 0x00000001".toList = some ⟨.lit 0x20, .lit 1, .lit 0⟩ ∧
  assemble "bceil.32 17".toList = some ⟨.lit 0x28, .lit 17, .lit 0⟩ ∧
  assemble "ctz.32 y0".toList = some ⟨.lit 0x22, .result 0, .lit 0⟩ ∧
  assemble "ctz.32 h1".toList = some ⟨.lit 0x22, .host 1, .lit 0⟩ ∧
  assemble "rotl.8 0x96, -3".toList = some ⟨.lit 0x09, .lit 0x96, .lit (-3)⟩ ∧
  assemble "rotl.7 0x96, -3".toList = none ∧
  readEncoded "opw=0x3F x=0xFFFFFFFFFFFFFFFF s=-1".toList = some ⟨.lit 0x3F, .lit 0xFFFFFFFFFFFFFFFF, .lit (-1)⟩
end

