-- ==== Sys2Proof/Laws/Operands.lean ====
section
/-! SUPPORT. The operand, the two amounts of a rotate and the helper functions, said once. -/

namespace Sys2Proof.Machine

/-- `xw` has the bits of `x` below W and no others (R38). -/
@[simp] theorem operand_getLsbD (w : Width) (x : Data) (i : Nat) :
    (operand w x).getLsbD i = (decide (i < w.bits) && x.getLsbD i) := by
  simp [operand]

/-- `2^log2W = W` (R35). -/
theorem two_pow_log2 (w : Width) : 2 ^ w.log2 = w.bits := by cases w <;> rfl

/-- A width has at least one bit, and at most the 64 of the ports. -/
theorem bits_bounds (w : Width) : 0 < w.bits ∧ w.bits ≤ 64 := by cases w <;> decide

/-- No shift is by W or more (R62, R63). -/
theorem rotateAmount_lt (w : Width) (s : Count) : rotateAmount w s < w.bits := by
  rw [← two_pow_log2 w]
  exact BitVec.isLt _

/-- No shift is by W or more (R62, R63). -/
theorem rotateComplement_lt (w : Width) (s : Count) : rotateComplement w s < w.bits := by
  rw [← two_pow_log2 w]
  exact BitVec.isLt _

variable {n : Nat} (v : BitVec n)

theorem hbBelow_succ (k : Nat) : hbBelow v (k + 1) = if v.getLsbD k then k else hbBelow v k := rfl

theorem lbFrom_succ (fuel i : Nat) : lbFrom v (fuel + 1) i = if v.getLsbD i then i else lbFrom v fuel (i + 1) := rfl

theorem onesBelow_succ (k : Nat) : onesBelow v (k + 1) = onesBelow v k + (v.getLsbD k).toNat := rfl

/-- At most `k` of `k` bits are set. -/
theorem onesBelow_le (k : Nat) : onesBelow v k ≤ k := by
  induction k with
  | zero => exact Nat.le_refl _
  | succ k ih =>
    have hb : (v.getLsbD k).toNat ≤ 1 := Bool.toNat_le _
    rw [onesBelow_succ]
    omega

end Sys2Proof.Machine
end

