-- ==== Sys2Proof/Laws/State.lean ====
section
/-! SUPPORT. One lemma per field per update of State: no later proof unfolds a record update. -/

namespace Sys2Proof.Machine.State

@[simp] theorem deliver_opw (st : State) (r : Data) : (st.deliver r).opw = st.opw := rfl
@[simp] theorem deliver_x (st : State) (r : Data) : (st.deliver r).x = st.x := rfl
@[simp] theorem deliver_s (st : State) (r : Data) : (st.deliver r).s = st.s := rfl
@[simp] theorem deliver_driven (st : State) (r : Data) : (st.deliver r).driven = st.driven := rfl
@[simp] theorem deliver_y (st : State) (r : Data) : (st.deliver r).y = r := rfl
@[simp] theorem deliver_cv (st : State) (r : Data) : (st.deliver r).cv = false := rfl
@[simp] theorem deliver_cvc (st : State) (r : Data) : (st.deliver r).cvc = 0 := rfl
@[simp] theorem deliver_pending (st : State) (r : Data) : (st.deliver r).pending = st.pending := rfl
@[simp] theorem deliver_results (st : State) (r : Data) : (st.deliver r).results = st.results := rfl
@[simp] theorem deliver_hostVals (st : State) (r : Data) : (st.deliver r).hostVals = st.hostVals := rfl

@[simp] theorem drive_opw (st : State) (o : Opw) (x' : Data) (s' : Count) : (st.drive o x' s').opw = o := rfl
@[simp] theorem drive_x (st : State) (o : Opw) (x' : Data) (s' : Count) : (st.drive o x' s').x = x' := rfl
@[simp] theorem drive_s (st : State) (o : Opw) (x' : Data) (s' : Count) : (st.drive o x' s').s = s' := rfl
@[simp] theorem drive_driven (st : State) (o : Opw) (x' : Data) (s' : Count) : (st.drive o x' s').driven = true := rfl
@[simp] theorem drive_y (st : State) (o : Opw) (x' : Data) (s' : Count) : (st.drive o x' s').y = st.y := rfl
@[simp] theorem drive_cv (st : State) (o : Opw) (x' : Data) (s' : Count) : (st.drive o x' s').cv = st.cv := rfl
@[simp] theorem drive_cvc (st : State) (o : Opw) (x' : Data) (s' : Count) : (st.drive o x' s').cvc = st.cvc := rfl
@[simp] theorem drive_pending (st : State) (o : Opw) (x' : Data) (s' : Count) : (st.drive o x' s').pending = st.pending := rfl
@[simp] theorem drive_results (st : State) (o : Opw) (x' : Data) (s' : Count) : (st.drive o x' s').results = st.results := rfl
@[simp] theorem drive_hostVals (st : State) (o : Opw) (x' : Data) (s' : Count) : (st.drive o x' s').hostVals = st.hostVals := rfl

@[simp] theorem advance_opw (st : State) (rest : List HostItem) : (st.advance rest).opw = st.opw := rfl
@[simp] theorem advance_x (st : State) (rest : List HostItem) : (st.advance rest).x = st.x := rfl
@[simp] theorem advance_s (st : State) (rest : List HostItem) : (st.advance rest).s = st.s := rfl
@[simp] theorem advance_driven (st : State) (rest : List HostItem) : (st.advance rest).driven = st.driven := rfl
@[simp] theorem advance_y (st : State) (rest : List HostItem) : (st.advance rest).y = st.y := rfl
@[simp] theorem advance_cv (st : State) (rest : List HostItem) : (st.advance rest).cv = st.cv := rfl
@[simp] theorem advance_cvc (st : State) (rest : List HostItem) : (st.advance rest).cvc = st.cvc := rfl
@[simp] theorem advance_pending (st : State) (rest : List HostItem) : (st.advance rest).pending = rest := rfl
@[simp] theorem advance_results (st : State) (rest : List HostItem) : (st.advance rest).results = st.results := rfl
@[simp] theorem advance_hostVals (st : State) (rest : List HostItem) : (st.advance rest).hostVals = st.hostVals := rfl

@[simp] theorem sample_opw (st : State) : (st.sample).opw = st.opw := rfl
@[simp] theorem sample_x (st : State) : (st.sample).x = st.x := rfl
@[simp] theorem sample_s (st : State) : (st.sample).s = st.s := rfl
@[simp] theorem sample_driven (st : State) : (st.sample).driven = st.driven := rfl
@[simp] theorem sample_y (st : State) : (st.sample).y = st.y := rfl
@[simp] theorem sample_cv (st : State) : (st.sample).cv = st.cv := rfl
@[simp] theorem sample_cvc (st : State) : (st.sample).cvc = st.cvc := rfl
@[simp] theorem sample_pending (st : State) : (st.sample).pending = st.pending := rfl
@[simp] theorem sample_results (st : State) : (st.sample).results = st.results ++ [st.y] := rfl
@[simp] theorem sample_hostVals (st : State) : (st.sample).hostVals = st.hostVals := rfl

@[simp] theorem recordHost_opw (st : State) (v : Data) : (st.recordHost v).opw = st.opw := rfl
@[simp] theorem recordHost_x (st : State) (v : Data) : (st.recordHost v).x = st.x := rfl
@[simp] theorem recordHost_s (st : State) (v : Data) : (st.recordHost v).s = st.s := rfl
@[simp] theorem recordHost_driven (st : State) (v : Data) : (st.recordHost v).driven = st.driven := rfl
@[simp] theorem recordHost_y (st : State) (v : Data) : (st.recordHost v).y = st.y := rfl
@[simp] theorem recordHost_cv (st : State) (v : Data) : (st.recordHost v).cv = st.cv := rfl
@[simp] theorem recordHost_cvc (st : State) (v : Data) : (st.recordHost v).cvc = st.cvc := rfl
@[simp] theorem recordHost_pending (st : State) (v : Data) : (st.recordHost v).pending = st.pending := rfl
@[simp] theorem recordHost_results (st : State) (v : Data) : (st.recordHost v).results = st.results := rfl
@[simp] theorem recordHost_hostVals (st : State) (v : Data) : (st.recordHost v).hostVals = st.hostVals ++ [v] := rfl

@[simp] theorem load_opw (st : State) (p : List HostItem) : (st.load p).opw = st.opw := rfl
@[simp] theorem load_x (st : State) (p : List HostItem) : (st.load p).x = st.x := rfl
@[simp] theorem load_s (st : State) (p : List HostItem) : (st.load p).s = st.s := rfl
@[simp] theorem load_driven (st : State) (p : List HostItem) : (st.load p).driven = st.driven := rfl
@[simp] theorem load_y (st : State) (p : List HostItem) : (st.load p).y = st.y := rfl
@[simp] theorem load_cv (st : State) (p : List HostItem) : (st.load p).cv = st.cv := rfl
@[simp] theorem load_cvc (st : State) (p : List HostItem) : (st.load p).cvc = st.cvc := rfl
@[simp] theorem load_pending (st : State) (p : List HostItem) : (st.load p).pending = p ++ st.pending := rfl
@[simp] theorem load_results (st : State) (p : List HostItem) : (st.load p).results = st.results := rfl
@[simp] theorem load_hostVals (st : State) (p : List HostItem) : (st.load p).hostVals = st.hostVals := rfl

@[simp] theorem withFetchWord_opw (st : State) (nbits w : Nat) : (st.withFetchWord nbits w).opw = st.opw := rfl
@[simp] theorem withFetchWord_x (st : State) (nbits w : Nat) : (st.withFetchWord nbits w).x = st.x := rfl
@[simp] theorem withFetchWord_s (st : State) (nbits w : Nat) : (st.withFetchWord nbits w).s = st.s := rfl
@[simp] theorem withFetchWord_driven (st : State) (nbits w : Nat) : (st.withFetchWord nbits w).driven = st.driven := rfl
@[simp] theorem withFetchWord_y (st : State) (nbits w : Nat) : (st.withFetchWord nbits w).y = st.y := rfl
@[simp] theorem withFetchWord_cv (st : State) (nbits w : Nat) : (st.withFetchWord nbits w).cv = st.cv := rfl
@[simp] theorem withFetchWord_cvc (st : State) (nbits w : Nat) : (st.withFetchWord nbits w).cvc = st.cvc := rfl
@[simp] theorem withFetchWord_pending (st : State) (nbits w : Nat) : (st.withFetchWord nbits w).pending = .issue (wordIssue st (w % 2 ^ nbits)) :: st.pending := rfl
@[simp] theorem withFetchWord_results (st : State) (nbits w : Nat) : (st.withFetchWord nbits w).results = st.results := rfl
@[simp] theorem withFetchWord_hostVals (st : State) (nbits w : Nat) : (st.withFetchWord nbits w).hostVals = st.hostVals := rfl

end Sys2Proof.Machine.State
end

