-- ==== Sys2Proof/Laws/Ops.lean ====
section
/-! SUPPORT. What the shared operations can do, said once: settling an evaluation, sampling, resolving, presenting. -/

namespace Sys2Proof.Machine

variable {st t : State} {r : EvalResult} {o : StepResult} {f : Fault} {c : Violation}

@[simp] theorem settle_ok (st : State) (y : Data) : st.settle (.ok y) = .next (st.deliver y) := rfl

@[simp] theorem settle_fault (st : State) (c : Violation) :
    st.settle (.fault c) = .fault (.contractViolation c) := rfl

/-- A next state of an evaluation is the state with its result delivered. -/
theorem settle_eq_next_iff : st.settle r = .next t ↔ ∃ y, r = .ok y ∧ t = st.deliver y := by
  cases r with
  | ok y => simp [eq_comm]
  | fault c => simp

/-- A fault of an evaluation is its contract violation. -/
theorem settle_eq_fault_iff : st.settle r = .fault f ↔ ∃ c, r = .fault c ∧ f = .contractViolation c := by
  cases r with
  | ok y => simp
  | fault c => simp [eq_comm]

/-- Settling an evaluation refuses nothing. -/
theorem settle_ne_refused (q : Refusal) : st.settle r ≠ .refused q := by
  cases r <;> simp

@[simp] theorem sampled_next (t : State) : sampled (.next t) = .next t.sample := rfl

@[simp] theorem sampled_fault (f : Fault) : sampled (.fault f) = .fault f := rfl

@[simp] theorem sampled_refused (q : Refusal) : sampled (.refused q) = .refused q := rfl

/-- A sampled next state is the sample of a next state. -/
theorem sampled_eq_next_iff : sampled o = .next t ↔ ∃ u, o = .next u ∧ t = u.sample := by
  cases o with
  | next u => simp [eq_comm]
  | fault f => simp
  | refused q => simp

/-- Sampling keeps a fault, and makes none. -/
theorem sampled_eq_fault_iff : sampled o = .fault f ↔ o = .fault f := by
  cases o <;> simp

/-- Sampling keeps a refusal, and makes none. -/
theorem sampled_eq_refused_iff {q : Refusal} : sampled o = .refused q ↔ o = .refused q := by
  cases o <;> simp

/-- A well-formed source names a value. -/
theorem resolve_of_wf {ys hs : List Data} {a : Source} (h : a.wf ys.length hs.length = true) :
    ∃ v, resolve ys hs a = some v := by
  cases a with
  | lit v => exact ⟨v, rfl⟩
  | result j => exact ⟨ys[j]'(by simpa [Source.wf] using h), by simp [resolve]⟩
  | host j => exact ⟨hs[j]'(by simpa [Source.wf] using h), by simp [resolve]⟩

/-- A well-formed issue presents values on the ports. -/
theorem presented_of_wf {ys hs : List Data} {k : Issue} (h : k.wf ys.length hs.length = true) :
    ∃ p, presented ys hs k = some p := by
  simp only [Issue.wf, Bool.and_eq_true] at h
  obtain ⟨⟨ho, hx⟩, hs'⟩ := h
  obtain ⟨o, ho⟩ := resolve_of_wf ho
  obtain ⟨x, hx⟩ := resolve_of_wf hx
  obtain ⟨s, hs'⟩ := resolve_of_wf hs'
  exact ⟨_, by simp [presented, ho, hx, hs']; rfl⟩

/-- An issue on literals presents them. -/
@[simp] theorem presented_literal (ys hs : List Data) (o x s : Data) :
    presented ys hs ⟨.lit o, .lit x, .lit s⟩ = some (o.setWidth 6, x, s.setWidth 32) := rfl

end Sys2Proof.Machine
end

