-- ==== Sys2Proof/Laws/PerInstr.lean ====
section
/-! SUPPORT. Facts about every operation as syntax, one lemma per constructor. -/

namespace Sys2Proof.Laws.EncodeFields

/-- The word of `i` holds the code of `i` and of its width in the fields `opc` and `wsel` (R34), and reads back as
those fields. -/
def Statement (i : Instr) : Prop :=
  opcOf (encode i) = opcCode i ∧ wselOf (encode i) = wselCode i.width ∧ (opcOf (encode i)).toNat ≤ 10

theorem clz (w : Width) : Statement (.clz w) := by cases w <;> exact ⟨rfl, rfl, by decide⟩
theorem clo (w : Width) : Statement (.clo w) := by cases w <;> exact ⟨rfl, rfl, by decide⟩
theorem ctz (w : Width) : Statement (.ctz w) := by cases w <;> exact ⟨rfl, rfl, by decide⟩
theorem cto (w : Width) : Statement (.cto w) := by cases w <;> exact ⟨rfl, rfl, by decide⟩
theorem popc (w : Width) : Statement (.popc w) := by cases w <;> exact ⟨rfl, rfl, by decide⟩
theorem bwid (w : Width) : Statement (.bwid w) := by cases w <;> exact ⟨rfl, rfl, by decide⟩
theorem hsb (w : Width) : Statement (.hsb w) := by cases w <;> exact ⟨rfl, rfl, by decide⟩
theorem bfloor (w : Width) : Statement (.bfloor w) := by cases w <;> exact ⟨rfl, rfl, by decide⟩
theorem bceil (w : Width) : Statement (.bceil w) := by cases w <;> exact ⟨rfl, rfl, by decide⟩
theorem rotl (w : Width) : Statement (.rotl w) := by cases w <;> exact ⟨rfl, rfl, by decide⟩
theorem rotr (w : Width) : Statement (.rotr w) := by cases w <;> exact ⟨rfl, rfl, by decide⟩

end Sys2Proof.Laws.EncodeFields
end

