-- ==== Sys2Proof/Laws/Step.lean ====
section
/-! SUPPORT. The meanings, one issue and one step, said once in terms of `evalInstr`. -/

namespace Sys2Proof.Machine

variable {st t : State} {i : Instr}

/-- Every meaning settles the result its operation has on the ports `x` and `s`. -/
theorem exec_eq_settle (i : Instr) (st : State) : exec i st = st.settle (evalInstr i st.x st.s) := by
  cases i <;> rfl

/-- The two ways an evaluation of the ports goes. -/
theorem evaluate_cases (st : State) :
    (∃ e, decode st.opw = .error e ∧ evaluate st = .fault (.contractViolation .reservedOp)) ∨
      ∃ i, decode st.opw = .ok i ∧ evaluate st = st.settle (evalInstr i st.x st.s) := by
  unfold evaluate
  cases h : decode st.opw with
  | error e => exact .inl ⟨e, rfl, rfl⟩
  | ok i => exact .inr ⟨i, rfl, exec_eq_settle i st⟩

/-- A step on an empty program changes nothing. -/
theorem step_of_nil (h : st.pending = []) : step st = .next st := by
  simp [step, h, idle]

/-- A step on a line of the program runs that line. -/
theorem step_of_cons {item : HostItem} {rest : List HostItem} (h : st.pending = item :: rest) :
    step st = runItem item rest st := by
  simp [step, h]

/-- What a step that answers a next state has done. -/
theorem step_next_cases (h : step st = .next t) :
    (st.pending = [] ∧ t = st) ∨
    (∃ v rest, st.pending = .hostStep v :: rest ∧ t = (st.advance rest).recordHost v) ∨
    ∃ k rest opw x s i y, st.pending = .issue k :: rest ∧
      presented st.results st.hostVals k = some (opw, x, s) ∧ decode opw = .ok i ∧ evalInstr i x s = .ok y ∧
      t = (((st.advance rest).drive opw x s).deliver y).sample := by
  cases hp : st.pending with
  | nil =>
    rw [step_of_nil hp] at h
    exact .inl ⟨rfl, by injection h with h; exact h.symm⟩
  | cons item rest =>
    rw [step_of_cons hp] at h
    cases item with
    | hostStep v => exact .inr (.inl ⟨v, rest, rfl, by injection h with h; exact h.symm⟩)
    | issue k =>
      refine .inr (.inr ?_)
      simp only [runItem, runIssue] at h
      cases hk : presented st.results st.hostVals k with
      | none => simp [hk] at h
      | some p =>
        obtain ⟨opw, x, s⟩ := p
        simp only [hk] at h
        obtain ⟨u, hu, rfl⟩ := sampled_eq_next_iff.mp h
        obtain ⟨e, -, he⟩ | ⟨i, hi, he⟩ := evaluate_cases ((st.advance rest).drive opw x s)
        · rw [he] at hu; cases hu
        · rw [he] at hu
          obtain ⟨y, hy, rfl⟩ := settle_eq_next_iff.mp hu
          exact ⟨k, rest, opw, x, s, i, y, rfl, hk, hi, hy, rfl⟩

end Sys2Proof.Machine

namespace Sys2Proof.Safety

open Sys2Proof.Machine

variable {st t : State} {n : Nat}

/-- No step. -/
@[simp] theorem run_zero (st : State) : run 0 st = .next st := rfl

/-- A run goes on from the next state of its first step. -/
theorem run_of_next (h : step st = .next t) : run (n + 1) st = run n t := by
  have hc : Sys2Proof.core.step st = step st := rfl
  simp only [run, Host.Core.run, hc, h]
  rfl

/-- A run stops at a fault. -/
theorem run_of_fault {f : Fault} (h : step st = .fault f) : run (n + 1) st = .fault f := by
  have hc : Sys2Proof.core.step st = step st := rfl
  simp only [run, Host.Core.run, hc, h]
  rfl

/-- A run stops at a refusal. -/
theorem run_of_refused {q : Refusal} (h : step st = .refused q) : run (n + 1) st = .refused q := by
  have hc : Sys2Proof.core.step st = step st := rfl
  simp only [run, Host.Core.run, hc, h]
  rfl

end Sys2Proof.Safety
end

