-- ==== Sys2Proof/Tests/Slice0.lean ====
section
/-! SUPPORT. Tests of the model on the spec's own words and vectors (30_encoding.md R34 to R37, 95_test_vectors.md), the
smoke test of WellFormed, and a witness for the hypotheses of every statement that has some. -/

namespace Sys2Proof.Tests

open Sys2Proof.Machine Sys2Proof.Safety

/-- The state after reset, with values on the ports `x` and `s`. -/
def ports (x : Data) (s : Count) : State := { State.reset with x := x, s := s }

/-- `y` of a next state. -/
def yOf : StepResult → Option Data
  | .next t => some t.y
  | .fault _ => none
  | .refused _ => none

/-- The cause of a fault. -/
def causeOf : StepResult → Option Violation
  | .fault (.contractViolation c) => some c
  | .next _ => none
  | .refused _ => none

/-- The results of a next state. -/
def resultsOf : StepResult → Option (List Data)
  | .next t => some t.results
  | .fault _ => none
  | .refused _ => none

/-! ### Words written out from R34 (`wwoooo`), R35 and R36 -/

theorem test_decode_clz : decode 0b10_0000 = .ok (.clz .w32) := by decide
theorem test_decode_clo : decode 0b01_0001 = .ok (.clo .w16) := by decide
theorem test_decode_ctz : decode 0b11_0010 = .ok (.ctz .w64) := by decide
theorem test_decode_cto : decode 0b00_0011 = .ok (.cto .w8) := by decide
theorem test_decode_popc : decode 0b01_0100 = .ok (.popc .w16) := by decide
theorem test_decode_bwid : decode 0b10_0101 = .ok (.bwid .w32) := by decide
theorem test_decode_hsb : decode 0b00_0110 = .ok (.hsb .w8) := by decide
theorem test_decode_bfloor : decode 0b11_0111 = .ok (.bfloor .w64) := by decide
theorem test_decode_bceil : decode 0b01_1000 = .ok (.bceil .w16) := by decide
theorem test_decode_rotl : decode 0b00_1001 = .ok (.rotl .w8) := by decide
theorem test_decode_rotr : decode 0b11_1010 = .ok (.rotr .w64) := by decide

/-- R37: a reserved code is rejected by name. -/
theorem test_decode_reserved : decode 0x2B = .error (.reservedOp 11) ∧ decode 0x3F = .error (.reservedOp 15) := by decide

/-- R34: a word has 6 bits. -/
theorem test_decode_too_wide : decodeNat 64 = .error (.wordTooWide 64) ∧ decodeTableWord 8 0x60 = none := by decide

/-- R36's examples as table words. -/
theorem test_decode_table_words :
    decodeTableWord 8 0x20 = some (.clz .w32) ∧ decodeTableWord 8 0x32 = some (.ctz .w64) ∧
      decodeTableWord 8 0x09 = some (.rotl .w8) := by decide

/-! ### WellFormed refuses an ill-formed term for each check -/

theorem test_width_refused : Width.ofNat? 7 = none ∧ Width.ofNat? 0 = none ∧ Width.ofNat? 128 = none := by decide
theorem test_source_refused : (Source.result 0).wf 0 5 = false ∧ (Source.host 3).wf 9 3 = false := by decide
theorem test_issue_refused : (Issue.wf 1 0 ⟨.lit 0x20, .result 1, .lit 0⟩) = false := by decide
theorem test_program_refused :
    programWf 0 0 [.issue ⟨.lit 0x28, .lit 17, .lit 0⟩, .issue ⟨.lit 0x22, .result 1, .lit 0⟩] = false ∧
      programWf 0 0 [.issue ⟨.lit 0x22, .host 0, .lit 0⟩, .hostStep 7] = false := by decide

/-! ### Vectors of 95_test_vectors.md sections 1 to 8 -/

/-- `clz.32 1` = 31; `clz.16 0xFFFF0001` = 15: `x[63:16]` ignored. -/
theorem test_clz : yOf (exec (.clz .w32) (ports 1 0)) = some 31 ∧
    yOf (exec (.clz .w16) (ports 0xFFFF0001 0)) = some 15 := by decide

/-- `clz.64 0x100000000` = 31 (hi half); `clz.64 0xFFFFFFFF` = 32 (lo half). -/
theorem test_clz_halves : yOf (exec (.clz .w64) (ports 0x0000000100000000 0)) = some 31 ∧
    yOf (exec (.clz .w64) (ports 0x00000000FFFFFFFF 0)) = some 32 := by decide

/-- `clo.8 0xFF` = 8: the complement is taken at width 8; `clo.64 0xFFFFFFFF80000000` = 33. -/
theorem test_clo : yOf (exec (.clo .w8) (ports 0xFF 0)) = some 8 ∧
    yOf (exec (.clo .w64) (ports 0xFFFFFFFF80000000 0)) = some 33 := by decide

/-- `ctz.8 0xFF00` = 8 through the sentinel; `ctz.32 0x80000000` = 31. -/
theorem test_ctz : yOf (exec (.ctz .w8) (ports 0xFF00 0)) = some 8 ∧
    yOf (exec (.ctz .w32) (ports 0x80000000 0)) = some 31 := by decide

/-- `cto.16 0xFFFF` = 16 through the sentinel; `cto.64 0x1FFFFFFFF` = 33. -/
theorem test_cto : yOf (exec (.cto .w16) (ports 0xFFFF 0)) = some 16 ∧
    yOf (exec (.cto .w64) (ports 0x00000001FFFFFFFF 0)) = some 33 := by decide

/-- `popc.32 0xDEADBEEF` = 24; `popc.8 0xFFFFFF00` = 0. -/
theorem test_popc : yOf (exec (.popc .w32) (ports 0xDEADBEEF 0)) = some 24 ∧
    yOf (exec (.popc .w8) (ports 0x00000000FFFFFF00 0)) = some 0 := by decide

/-- `bwid.32 17` = 5; `bwid.64 0` = 0. -/
theorem test_bwid : yOf (exec (.bwid .w32) (ports 17 0)) = some 5 ∧
    yOf (exec (.bwid .w64) (ports 0 0)) = some 0 := by decide

/-- `hsb.32 64` = 1; `hsb.32 0` = 0; `hsb.8 3` = 0. -/
theorem test_hsb : yOf (exec (.hsb .w32) (ports 64 0)) = some 1 ∧ yOf (exec (.hsb .w32) (ports 0 0)) = some 0 ∧
    yOf (exec (.hsb .w8) (ports 3 0)) = some 0 := by decide

/-- `bfloor.32 17` = 16; `bfloor.64` of all ones = 2^63. -/
theorem test_bfloor : yOf (exec (.bfloor .w32) (ports 17 0)) = some 16 ∧
    yOf (exec (.bfloor .w64) (ports 0xFFFFFFFFFFFFFFFF 0)) = some 0x8000000000000000 := by decide

/-- `bceil.8 0x180` = 0x80 (bit 8 ignored); `bceil.64 0` = 0; `bceil.16 0x7FFF` = 0x8000. -/
theorem test_bceil : yOf (exec (.bceil .w8) (ports 0x180 0)) = some 0x80 ∧
    yOf (exec (.bceil .w64) (ports 0 0)) = some 0 ∧ yOf (exec (.bceil .w16) (ports 0x7FFF 0)) = some 0x8000 := by decide

/-- `bceil.8 0x81` and `bceil.64 0x8000000000000001` fault with BCEIL_RANGE. -/
theorem test_bceil_range : causeOf (exec (.bceil .w8) (ports 0x81 0)) = some .bceilRange ∧
    causeOf (exec (.bceil .w64) (ports 0x8000000000000001 0)) = some .bceilRange := by decide

/-- `rotl.8 0x96, 9` = 0x2D; `rotl.64 0x0123456789ABCDEF, -1` = 0x8091A2B3C4D5E6F7. -/
theorem test_rotl : yOf (exec (.rotl .w8) (ports 0xFF00000000000096 9)) = some 0x2D ∧
    yOf (exec (.rotl .w64) (ports 0x0123456789ABCDEF (-1))) = some 0x8091A2B3C4D5E6F7 := by decide

/-- `rotr.8 0x01, 1` = 0x80; `rotr.32 0x89ABCDEF, -1` = 0x13579BDF. -/
theorem test_rotr : yOf (exec (.rotr .w8) (ports 0x01 1)) = some 0x80 ∧
    yOf (exec (.rotr .w32) (ports 0x89ABCDEF (-1))) = some 0x13579BDF := by decide

/-- R78, section 8: `opw=0x2B` faults with RESERVED_OP. -/
theorem test_reserved_issue :
    causeOf (step (State.reset.withFetchWord 8 0x2B)) = some .reservedOp := by decide

/-- The codes R72 gives the two causes. -/
theorem test_cause_codes : Violation.reservedOp.code = 1 ∧ Violation.bceilRange.code = 2 := by decide

/-- A table word runs as the first issue after reset: `clz.32` of the 0 on the port is 32. -/
theorem test_first_issue : resultsOf (step (State.reset.withFetchWord 8 0x20)) = some [32] := by decide

/-! ### Decoder-level vectors (section 2) -/

/-- u = 0x12345: smear 0x1FFFF, residue 17, entry 15. -/
theorem test_decodeL : smear32 0x00012345 = 0x0001FFFF ∧ (residue37 0x0001FFFF).val = 17 ∧
    clz32 0x00012345 = 15 := by decide

/-- u = 0x12340: lowest bit 0x40, residue 27, entry 6. -/
theorem test_decodeT : lowestBit 0x00012340 = 0x40 ∧ (residue37 0x40).val = 27 ∧ ctz32 0x00012340 = 6 := by decide

/-! ### Assembler (R43; section 9) -/

theorem test_assemble_rotate :
    assemble "rotl.8 0x96, -2147483648".toList = some ⟨.lit 0x09, .lit 0x96, .lit 0xFFFFFFFF80000000⟩ := by decide
theorem test_assemble_out_of_range : assemble "rotl.8 0x96, 2147483648".toList = none ∧
    assemble "clz.64 18446744073709551616".toList = none ∧ assemble "clz.24 1".toList = none ∧
    assemble "rotl.8 1".toList = none ∧ assemble "clz.8 1, 2".toList = none := by decide
theorem test_encoded_form :
    readEncoded "opw=0x28 x=0x00000011".toList = some ⟨.lit 0x28, .lit 0x11, .lit 0⟩ := by decide

/-! ### Witnesses: states and operands that meet the hypotheses of the statements -/

/-- WidthSelectTable: a word that decodes. -/
theorem witness_WidthSelectTable : decode 0x3A = .ok (.rotr .w64) := by decide

/-- ReservedCodesRaiseReservedOp, StepFaultsOnReservedCode: both sides of the border between 10 and 11, and 15. -/
theorem witness_ReservedCodes : ((0x0A : Opw).extractLsb' 0 4).toNat < 11 ∧ 11 ≤ ((0x0B : Opw).extractLsb' 0 4).toNat ∧
    11 ≤ ((0x3F : Opw).extractLsb' 0 4).toNat ∧ ({ State.reset with opw := 0x0B } : State).opw = 0x0B := by decide

/-- The corner cases of ClzResult, CtzResult, PopcResult, BwidResult, HsbResult, BfloorResult, BceilResult: zero. -/
theorem witness_zero : (ports 0xFFFFFFFFFFFFFF00 0).x.setWidth Width.w8.bits = 0 ∧
    (ports 0 0).x.setWidth Width.w64.bits = 0 := by decide

/-- ClzResult, BwidResult: the top bit set. CloResult: the top bit clear. -/
theorem witness_top_bit : ((ports 0x80 0).x.setWidth Width.w8.bits).msb = true ∧
    ((ports 0x8000000000000000 0).x.setWidth Width.w64.bits).msb = true ∧
    ((ports 0x7F 0).x.setWidth Width.w8.bits).msb = false := by decide

/-- CloResult, CtoResult, PopcResult, HsbResult, BfloorResult, RotlResult, RotrResult: all ones. -/
theorem witness_all_ones : (ports 0x1FF 0).x.setWidth Width.w8.bits = BitVec.allOnes Width.w8.bits ∧
    (ports 0xFFFFFFFFFFFFFFFF 0).x.setWidth Width.w64.bits = BitVec.allOnes Width.w64.bits := by decide

/-- CtzResult: bit 0 set. CtoResult: bit 0 clear. -/
theorem witness_bit_zero : (ports 1 0).x.getLsbD 0 = true ∧ (ports 2 0).x.getLsbD 0 = false := by decide

/-- CtzResult, HsbResult: `xw = 2^(W-1)`. BwidResult: `xw = 1`. -/
theorem witness_single_bits : ((ports 0x80 0).x.setWidth Width.w8.bits).toNat = 2 ^ (Width.w8.bits - 1) ∧
    ((ports 0x8000000000000000 0).x.setWidth Width.w64.bits).toNat = 2 ^ (Width.w64.bits - 1) ∧
    (ports 1 0).x.setWidth Width.w16.bits = 1#Width.w16.bits := by decide

/-- The operands of the examples of R56 to R60 and R63 to R69. -/
theorem witness_examples : (ports 1 0).x.setWidth 32 = 0x00000001#32 ∧ (ports 0xF0 0).x.setWidth 8 = 0xF0#8 ∧
    (ports 0x80000000 1).x.setWidth 32 = 0x80000000#32 ∧ (ports 0xFF 0).x.setWidth 16 = 0x00FF#16 ∧
    (ports 0xFFFFFFFF 0).x.setWidth 32 = 0xFFFFFFFF#32 ∧ (ports 17 0).x.setWidth 32 = 17#32 ∧
    (ports 64 0).x.setWidth 32 = 64#32 ∧ (ports 1 1).x.setWidth 8 = 0x01#8 ∧ (ports 1 1).s = 1 := by decide

/-- BwidResult, BfloorResult: a nonzero operand; BfloorResult, BceilResult: `xw = 2^k` at the ends of the range of k. -/
theorem witness_nonzero : (ports 3 0).x.setWidth Width.w8.bits ≠ 0 ∧
    (0 < Width.w8.bits ∧ ((ports 1 0).x.setWidth Width.w8.bits).toNat = 2 ^ 0) ∧
    (63 < Width.w64.bits ∧ ((ports 0x8000000000000000 0).x.setWidth Width.w64.bits).toNat = 2 ^ 63) := by decide

/-- BceilResult: the largest legal operand, the smallest violating one, and 1. -/
theorem witness_BceilResult : ((ports 0x80 0).x.setWidth Width.w8.bits).toNat ≤ 2 ^ (Width.w8.bits - 1) ∧
    1 ≤ ((ports 0x80 0).x.setWidth Width.w8.bits).toNat ∧ 1 ≤ ((ports 1 0).x.setWidth Width.w8.bits).toNat ∧
    2 ^ (Width.w8.bits - 1) < ((ports 0x81 0).x.setWidth Width.w8.bits).toNat ∧
    2 ^ (Width.w64.bits - 1) < ((ports 0x8000000000000001 0).x.setWidth Width.w64.bits).toNat := by decide

/-- RotlResult, RotrResult: counts that are multiples of W, the most negative count among them. -/
theorem witness_RotateResults : (ports 5 8).s.toInt % (Width.w8.bits : Int) = 0 ∧
    (ports 5 0x80000000).s.toInt % (Width.w64.bits : Int) = 0 := by decide

/-- OperationsWriteOnlyTheOutputs: an operation that completes. -/
theorem witness_OperationsWriteOnlyTheOutputs : ∃ t, exec (.bceil .w32) (ports 17 0) = .next t ∧ t.y = 32 :=
  ⟨_, rfl, by decide⟩

/-- ResultForms: each operation completes; the counts reach W and the values the top bit. -/
theorem witness_ResultForms :
    (∃ t, exec (.clz .w8) (ports 0 0) = .next t ∧ t.y = 8) ∧ (∃ t, exec (.clo .w8) (ports 0xFF 0) = .next t ∧ t.y = 8) ∧
    (∃ t, exec (.ctz .w64) (ports 0 0) = .next t ∧ t.y = 64) ∧ (∃ t, exec (.cto .w16) (ports 0xFFFF 0) = .next t ∧ t.y = 16) ∧
    (∃ t, exec (.popc .w8) (ports 0xFF 0) = .next t ∧ t.y = 8) ∧ (∃ t, exec (.bwid .w8) (ports 0xFF 0) = .next t ∧ t.y = 8) ∧
    (∃ t, exec (.hsb .w8) (ports 1 0) = .next t ∧ t.y = 1) ∧ (∃ t, exec (.bfloor .w8) (ports 0xFF 0) = .next t ∧ t.y = 0x80) ∧
    (∃ t, exec (.bceil .w8) (ports 0x80 0) = .next t ∧ t.y = 0x80) ∧ (∃ t, exec (.rotl .w8) (ports 1 7) = .next t ∧ t.y = 0x80) ∧
    ∃ t, exec (.rotr .w8) (ports 1 1) = .next t ∧ t.y = 0x80 :=
  ⟨⟨_, rfl, by decide⟩, ⟨_, rfl, by decide⟩, ⟨_, rfl, by decide⟩, ⟨_, rfl, by decide⟩, ⟨_, rfl, by decide⟩,
    ⟨_, rfl, by decide⟩, ⟨_, rfl, by decide⟩, ⟨_, rfl, by decide⟩, ⟨_, rfl, by decide⟩, ⟨_, rfl, by decide⟩,
    ⟨_, rfl, by decide⟩⟩

/-- UnreadInputsHaveNoEffect: operands that agree below W and differ above; a rotate with one count. -/
theorem witness_UnreadInputsHaveNoEffect :
    (0x12345600 : Data).setWidth (Instr.clz .w8).width.bits = (0 : Data).setWidth (Instr.clz .w8).width.bits ∧
    ((0x1FF : Data).setWidth (Instr.rotl .w8).width.bits = (0xFF : Data).setWidth (Instr.rotl .w8).width.bits) := by decide

/-- OperationsOtherThanBceilAreTotal: an operation that is not BCEIL. -/
theorem witness_OperationsOtherThanBceilAreTotal : ∀ w, Instr.clz .w8 ≠ .bceil w := by
  intro w h
  cases h

/-- PinsShowTheEvaluation: both kinds of result, and both causes. -/
theorem witness_PinsShowTheEvaluation : eval 0x20 1 0 = .ok 31 ∧ eval 0x08 0x81 0 = .fault .bceilRange ∧
    eval 0x0B 0 0 = .fault .reservedOp := by decide

/-- SamplesAfterTheLatencyAreSettled: the sample taken after exactly `T_eval`, in a driven state with settled outputs. -/
theorem witness_SamplesAfterTheLatencyAreSettled : Config.tEval ≤ Config.tEval ∧
    ∃ st, step (State.reset.withFetchWord 8 0x20) = .next st ∧ st.driven = true ∧ OutputsSettled st := by
  refine ⟨Nat.le_refl _, _, rfl, by decide, ?_⟩
  unfold OutputsSettled
  decide

/-- HelperFunctions, SmearFillsBelowTheHighestBit: nonzero values, with bits at both ends. -/
theorem witness_nonzero_vectors : (0x81 : BitVec Width.w8.bits) ≠ 0 ∧ (0x80000001 : BitVec 32) ≠ 0 ∧
    (0x8000000000000001 : BitVec 64) ≠ 0 ∧ hb (0x81 : BitVec 8) = 7 ∧ lb (0x81 : BitVec 8) = 0 := by decide

/-- PowersOfTwoModulo37, LeadingZeroTable, TrailingZeroTable, ReducerGivesTheResidue: the ends of the ranges of the
exponents and residues, with the residues of R47 to R49. -/
theorem witness_exponents : (0 < 36 ∧ 2 ^ 0 % 37 = 1) ∧ (1 ≤ 36 ∧ 36 ≤ 36) ∧
    (32 ≤ 32 ∧ (residue37 (BitVec.ofNat 32 (2 ^ 32 - 1))).val = 6) ∧ (0 ≤ 32 ∧ (residue37 0).val = 0) ∧
    (31 < 32 ∧ (residue37 (BitVec.ofNat 32 (2 ^ 31))).val = 22) ∧ (0 < 32 ∧ (residue37 1).val = 1) := by decide

/-- UnusedTableEntriesAreNeverRead: tables that differ from these in an unused entry. -/
theorem witness_UnusedTableEntriesAreNeverRead :
    ((∀ r : Fin 37, r.val ∉ [13, 18, 27, 36] → (lzLut.set 13 99)[r] = lzLut[r]) ∧ (lzLut.set 13 99)[13] ≠ lzLut[13]) ∧
    ((∀ r : Fin 37, r.val ∉ [7, 14, 19, 28] → (tzLut.set 28 99)[r] = tzLut[r]) ∧ (tzLut.set 28 99)[28] ≠ tzLut[28]) := by
  decide

/-- PowerOfTwoLaws: a power of two, its range and its corner. -/
theorem witness_PowerOfTwoLaws : eval (encode (.hsb .w8)) 0x80 0 = .ok 1 ∧
    ((0x80 : Data).setWidth Width.w8.bits).toNat ≤ 2 ^ (Width.w8.bits - 1) ∧ (0x100 : Data).setWidth Width.w8.bits = 0 ∧
    (0x80 : Data).setWidth Width.w8.bits ≠ 0 := by decide

/-- IssueValues: a result and a host value that exist, and the first of each that does not. -/
theorem witness_IssueValues : ([5, 6] : List Data)[1]? = some 6 ∧ ([6] : List Data)[0]? = some 6 ∧
    ([5, 6] : List Data).length ≤ 2 ∧ ([6] : List Data).length ≤ 1 := by decide

/-- Program 1 of 95_test_vectors.md, its first two lines: `bceil.32 17`, `ctz.32 y0`. -/
def program1 : List HostItem := [.issue ⟨.lit 0x28, .lit 17, .lit 0⟩, .issue ⟨.lit 0x22, .result 0, .lit 0⟩]

/-- An issue of `ctz.32` is pending after one result, which it names. -/
def afterOneResult : State :=
  { State.reset with pending := [.issue ⟨.lit 0x22, .result 0, .lit 0⟩], results := [0x20], driven := true, y := 0x20 }

/-- The same operand on the ports, as a literal, in a state with another past. -/
def anotherPast : State := { State.reset with pending := [.issue ⟨.lit 0x22, .lit 0x20, .lit 0⟩, .hostStep 3] }

/-- StepRunsTheDecodedOperation: all hypotheses in one state. -/
theorem witness_StepRunsTheDecodedOperation :
    afterOneResult.pending = .issue ⟨.lit 0x22, .result 0, .lit 0⟩ :: [] ∧
      presented afterOneResult.results afterOneResult.hostVals ⟨.lit 0x22, .result 0, .lit 0⟩ = some (0x22, 0x20, 0) ∧
      decode 0x22 = .ok (.ctz .w32) := by decide

/-- EvaluationsForgetThePast: two states with different pasts and the same values on the ports, and a step that
completes. -/
theorem witness_EvaluationsForgetThePast :
    afterOneResult.pending = .issue ⟨.lit 0x22, .result 0, .lit 0⟩ :: [] ∧
      anotherPast.pending = .issue ⟨.lit 0x22, .lit 0x20, .lit 0⟩ :: [.hostStep 3] ∧
      presented afterOneResult.results afterOneResult.hostVals ⟨.lit 0x22, .result 0, .lit 0⟩ =
        presented anotherPast.results anotherPast.hostVals ⟨.lit 0x22, .lit 0x20, .lit 0⟩ ∧
      resultsOf (step afterOneResult) = some [0x20, 5] := by decide

/-- StepFaultsOnReservedCode: an issue of the lowest reserved code is pending, with values that exist. -/
theorem witness_StepFaultsOnReservedCode :
    (State.reset.load [.issue ⟨.lit 0x0B, .lit 1, .lit 0⟩]).pending = .issue ⟨.lit 0x0B, .lit 1, .lit 0⟩ :: [] ∧
      presented (State.reset.load [.issue ⟨.lit 0x0B, .lit 1, .lit 0⟩]).results
        (State.reset.load [.issue ⟨.lit 0x0B, .lit 1, .lit 0⟩]).hostVals ⟨.lit 0x0B, .lit 1, .lit 0⟩ = some (0x0B, 1, 0) ∧
      11 ≤ ((0x0B : Opw).extractLsb' 0 4).toNat := by decide

/-- HostStepRecordsItsValue, EndedProgramStands: a pending host step, and none. -/
theorem witness_pending : (State.reset.load [.hostStep 7]).pending = .hostStep 7 :: [] ∧ State.reset.pending = [] := by
  decide

/-- StepKeepsInvariant: a driven state with a program left that meets the invariant, and takes a step. -/
theorem witness_StepKeepsInvariant :
    ∃ st t, step (State.reset.load program1) = .next st ∧ st.driven = true ∧ GoodState st ∧ step st = .next t ∧
      t.results = [0x20, 5] := by
  refine ⟨_, _, rfl, by decide, ?_, rfl, by decide⟩
  unfold GoodState OutputsSettled ReferencesExist
  decide

/-- InvariantAtReset, WellFormedProgramsAreNeverRefused: a state with nothing pending, and a well-formed program. -/
theorem witness_wellFormed_program : OutputsSettled State.reset ∧ State.reset.pending = [] ∧
    programWf State.reset.results.length State.reset.hostVals.length program1 = true ∧
    ReferencesExist (State.reset.load program1) := by
  unfold OutputsSettled ReferencesExist
  decide

/-- ProgramsRunToTheirEnd: both ends of R96 occur. -/
theorem witness_ProgramsRunToTheirEnd : program1.length ≤ 2 ∧ programEnd [] [] program1 = .normal [0x20, 5] [] ∧
    programEnd [] [] [.issue ⟨.lit 0x08, .lit 0x81, .lit 0⟩, .issue ⟨.lit 0x34, .lit 0, .lit 0⟩] = .fault .bceilRange := by
  decide

/-- OrderOfEvaluationsDoesNotMatter: two legal evaluations, swapped. -/
theorem witness_OrderOfEvaluationsDoesNotMatter :
    [((0x20, 1, 0) : Opw × Data × Count), (0x22, 8, 0)].Perm [(0x22, 8, 0), (0x20, 1, 0)] ∧
      ∀ e ∈ [((0x20, 1, 0) : Opw × Data × Count), (0x22, 8, 0)], ∃ y, eval e.1 e.2.1 e.2.2 = .ok y := by
  refine ⟨by decide, ?_⟩
  simp only [List.mem_cons, List.not_mem_nil, or_false, forall_eq_or_imp, forall_eq]
  exact ⟨⟨31, by decide⟩, ⟨3, by decide⟩⟩

end Sys2Proof.Tests
end

section
/-! PROOFS. The statements on 00_scope.md: what an operation writes and leaves alone (R12, R14), its agreement with
`eval` (R11, R12), and the helper functions of R13. -/

namespace Sys2Proof.Machine

/-! ### The word of an operation -/

/-- `wsel` of a width selects that width (R35). -/
@[simp] theorem widthOfWsel_wselCode (w : Width) : widthOfWsel (wselCode w) = w := by cases w <;> rfl

/-- The fields of a word, for every operation at once. -/
theorem encode_fields : (i : Instr) → Laws.EncodeFields.Statement i
  | .clz w => Laws.EncodeFields.clz w
  | .clo w => Laws.EncodeFields.clo w
  | .ctz w => Laws.EncodeFields.ctz w
  | .cto w => Laws.EncodeFields.cto w
  | .popc w => Laws.EncodeFields.popc w
  | .bwid w => Laws.EncodeFields.bwid w
  | .hsb w => Laws.EncodeFields.hsb w
  | .bfloor w => Laws.EncodeFields.bfloor w
  | .bceil w => Laws.EncodeFields.bceil w
  | .rotl w => Laws.EncodeFields.rotl w
  | .rotr w => Laws.EncodeFields.rotr w

/-- Decoding inverts encoding (R34 to R36): the fields determine the operation and its width. -/
@[simp] theorem decode_encode (i : Instr) : decode (encode i) = .ok i := by
  obtain ⟨hopc, hwsel, -⟩ := encode_fields i
  simp only [decode, hopc, hwsel, widthOfWsel_wselCode]
  cases i <;> rfl

/-- On the word of an operation, `eval` is that operation's own result (R12). -/
@[simp] theorem eval_encode (i : Instr) (x : Data) (s : Count) : eval (encode i) x s = evalInstr i x s := by
  simp only [eval, decode_encode]

/-! ### What an operation does -/

/-- An operation that completes has delivered its result, and done nothing else (R12). -/
theorem exec_eq_next_iff {i : Instr} {st t : State} :
    exec i st = .next t ↔ ∃ y, evalInstr i st.x st.s = .ok y ∧ t = st.deliver y := by
  rw [exec_eq_settle, settle_eq_next_iff]

/-! ### The helper functions of R13 -/

section HelperFunctions

variable {n : Nat} {v : BitVec n}

/-- A nonzero value has a set bit, below its width. -/
theorem exists_getLsbD_of_ne_zero (h : v ≠ 0) : ∃ j < n, v.getLsbD j = true := by
  by_contra hnone
  push Not at hnone
  exact h (BitVec.eq_of_getLsbD_eq fun j hj => by simpa using hnone j hj)

/-- The search for the highest set bit ends on a set bit, if one is in its range. -/
theorem getLsbD_hbBelow {k : Nat} (h : ∃ j < k, v.getLsbD j = true) : v.getLsbD (hbBelow v k) = true := by
  induction k with
  | zero => simp at h
  | succ k ih =>
    rw [hbBelow_succ]
    split
    case isTrue hk => exact hk
    case isFalse hk =>
      obtain ⟨j, hj, hset⟩ := h
      have hne : j ≠ k := by rintro rfl; exact hk hset
      exact ih ⟨j, by omega, hset⟩

/-- The search for the highest set bit passes over clear bits only. -/
theorem getLsbD_of_hbBelow_lt {k j : Nat} (hlt : hbBelow v k < j) (hj : j < k) : v.getLsbD j = false := by
  induction k with
  | zero => omega
  | succ k ih =>
    rw [hbBelow_succ] at hlt
    split at hlt
    case isTrue => omega
    case isFalse hk =>
      obtain rfl | hne := eq_or_ne j k
      · simpa using hk
      · exact ih hlt (by omega)

/-- `hb v` is a set bit of a nonzero value. -/
theorem getLsbD_hb (h : v ≠ 0) : v.getLsbD (hb v) = true := getLsbD_hbBelow (exists_getLsbD_of_ne_zero h)

/-- No bit above `hb v` is set. -/
theorem getLsbD_of_hb_lt {j : Nat} (hlt : hb v < j) : v.getLsbD j = false := by
  obtain hj | hj := lt_or_ge j n
  · exact getLsbD_of_hbBelow_lt hlt hj
  · exact BitVec.getLsbD_of_ge v j hj

/-- The search for the lowest set bit ends on a set bit, if one is in its range. -/
theorem getLsbD_lbFrom {fuel i : Nat} (h : ∃ j, i ≤ j ∧ j < i + fuel ∧ v.getLsbD j = true) :
    v.getLsbD (lbFrom v fuel i) = true := by
  induction fuel generalizing i with
  | zero => obtain ⟨j, hij, hj, -⟩ := h; omega
  | succ fuel ih =>
    rw [lbFrom_succ]
    split
    case isTrue hi => exact hi
    case isFalse hi =>
      obtain ⟨j, hij, hj, hset⟩ := h
      have hne : j ≠ i := by rintro rfl; exact hi hset
      exact ih ⟨j, by omega, by omega, hset⟩

/-- The search for the lowest set bit passes over clear bits only. -/
theorem getLsbD_of_lt_lbFrom {fuel i j : Nat} (hij : i ≤ j) (hlt : j < lbFrom v fuel i) : v.getLsbD j = false := by
  induction fuel generalizing i with
  | zero => rw [lbFrom] at hlt; omega
  | succ fuel ih =>
    rw [lbFrom_succ] at hlt
    split at hlt
    case isTrue => omega
    case isFalse hi =>
      obtain rfl | hne := eq_or_ne i j
      · simpa using hi
      · exact ih (by omega) hlt

/-- `lb v` is a set bit of a nonzero value. -/
theorem getLsbD_lb (h : v ≠ 0) : v.getLsbD (lb v) = true := by
  obtain ⟨j, hj, hset⟩ := exists_getLsbD_of_ne_zero h
  exact getLsbD_lbFrom ⟨j, by omega, by omega, hset⟩

/-- No bit below `lb v` is set. -/
theorem getLsbD_of_lt_lb {j : Nat} (hlt : j < lb v) : v.getLsbD j = false :=
  getLsbD_of_lt_lbFrom (Nat.zero_le j) hlt

/-- R60's running sum is the number of set bits among those it has passed. -/
theorem onesBelow_eq_countP (v : BitVec n) (k : Nat) :
    onesBelow v k = (List.range k).countP fun i => v.getLsbD i := by
  induction k with
  | zero => rfl
  | succ k ih =>
    rw [onesBelow_succ, ih, List.range_succ, List.countP_append, List.countP_singleton]
    cases v.getLsbD k <;> rfl

/-- `ones v` is the number of set bits of `v`. -/
theorem ones_eq_countP (v : BitVec n) : ones v = (List.range n).countP fun i => v.getLsbD i :=
  onesBelow_eq_countP v n

end HelperFunctions

/-! ### The statements -/

/-- Settles O18: a next state is the old one with a result delivered, and delivering writes the outputs only. -/
theorem operationsWriteOnlyTheOutputs : Obligations.OperationsWriteOnlyTheOutputs := by
  intro i st t h
  obtain ⟨y, -, rfl⟩ := exec_eq_next_iff.mp h
  simp

/-- Settles O23: an operation settles its own result, and that is what `eval` gives for its word. -/
theorem operationsFollowEval : Obligations.OperationsFollowEval := by
  intro i st
  rw [exec_eq_settle, eval_encode]
  cases evalInstr i st.x st.s with
  | ok y => rfl
  | fault c => rfl

/-- Settles O27: each helper function's lemma above, at the four widths. -/
theorem helperFunctions : Obligations.HelperFunctions :=
  ⟨fun _ _ h => ⟨getLsbD_hb h, fun _ => getLsbD_of_hb_lt, getLsbD_lb h, fun _ => getLsbD_of_lt_lb⟩,
    fun _ => ones_eq_countP, two_pow_log2⟩

end Sys2Proof.Machine
end

section
/-! PROOFS. The statements on 10_state.md: the invariant of the ports and of the program (R17, R24, R96), and the state
after power-up (R24, R88, R89). -/

namespace Sys2Proof.Machine

/-! ### Evaluation and pins -/

/-- On a word that decodes, `eval` is the result of the operation (R12). -/
theorem eval_of_decode {opw : Opw} {i : Instr} (h : decode opw = .ok i) (x : Data) (s : Count) :
    eval opw x s = evalInstr i x s := by
  simp only [eval, h]

/-- A legal evaluation shows its result on `y`, and no violation (R16, R40). -/
theorem pins_of_eval_ok {opw : Opw} {x y : Data} {s : Count} (h : eval opw x s = .ok y) :
    pins opw x s = ⟨y, false, 0⟩ := by
  simp only [pins, h, resultY, EvalResult.cv, EvalResult.cvc]

end Sys2Proof.Machine

namespace Sys2Proof.Safety

open Sys2Proof.Machine

variable {st : State} {rest : List HostItem}

/-! ### The outputs -/

/-- Delivering and sampling the result that `eval` gives for the ports settles the outputs. -/
theorem outputsSettled_deliver_sample {y : Data} (h : eval st.opw st.x st.s = .ok y) :
    OutputsSettled (st.deliver y).sample := fun _ => (pins_of_eval_ok h).symm

/-- A host step leaves the ports alone, so settled outputs stay settled (R96). -/
theorem outputsSettled_recordHost (h : OutputsSettled st) (v : Data) :
    OutputsSettled ((st.advance rest).recordHost v) := h

/-- Nothing is claimed of the outputs before the inputs are driven (R24). -/
theorem outputsSettled_of_undriven (h : st.driven = false) : OutputsSettled st := by
  simp [OutputsSettled, h]

/-! ### The references -/

/-- After an issue one more result exists, which the rest of the program may name (R96). -/
theorem programWf_rest_of_issue {k : Issue} (hp : st.pending = .issue k :: rest) (h : ReferencesExist st) :
    programWf (st.results.length + 1) st.hostVals.length rest = true := by
  simp only [ReferencesExist, hp, programWf, Bool.and_eq_true] at h
  obtain ⟨-, hrest⟩ := h
  exact hrest

/-- After a host step one more host value exists, which the rest of the program may name (R96). -/
theorem programWf_rest_of_hostStep {v : Data} (hp : st.pending = .hostStep v :: rest) (h : ReferencesExist st) :
    programWf st.results.length (st.hostVals.length + 1) rest = true := by
  simpa only [ReferencesExist, hp, programWf] using h

/-- A program loaded onto an empty one is all that is pending, so its references are those that must exist (R96). -/
theorem referencesExist_load_iff {p : List HostItem} (hp : st.pending = []) :
    ReferencesExist (st.load p) ↔ programWf st.results.length st.hostVals.length p = true := by
  simp [ReferencesExist, hp]

/-! ### The invariant, line by line -/

/-- A host step keeps the invariant. -/
theorem goodState_hostStep {v : Data} (hp : st.pending = .hostStep v :: rest) (h : GoodState st) :
    GoodState ((st.advance rest).recordHost v) := by
  obtain ⟨hout, href⟩ := h
  exact ⟨outputsSettled_recordHost hout v, by simpa [ReferencesExist] using programWf_rest_of_hostStep hp href⟩

/-- A legal issue keeps the invariant; what the outputs showed before it does not matter (R17). -/
theorem goodState_issue {k : Issue} {opw : Opw} {x y : Data} {s : Count} (hp : st.pending = .issue k :: rest)
    (heval : eval opw x s = .ok y) (h : GoodState st) :
    GoodState (((st.advance rest).drive opw x s).deliver y).sample := by
  obtain ⟨-, href⟩ := h
  exact ⟨outputsSettled_deliver_sample heval, by simpa [ReferencesExist] using programWf_rest_of_issue hp href⟩

/-! ### The statements -/

/-- Settles O45: the three ways a step answers a next state each keep the invariant. -/
theorem stepKeepsInvariant : Obligations.StepKeepsInvariant := by
  intro st t hgood hstep
  obtain ⟨-, rfl⟩ | ⟨v, rest, hp, rfl⟩ | ⟨k, rest, opw, x, s, i, y, hp, -, hdec, hy, rfl⟩ := step_next_cases hstep
  · exact hgood
  · exact goodState_hostStep hp hgood
  · exact goodState_issue hp ((eval_of_decode hdec x s).trans hy) hgood

/-- Settles O46: at reset nothing is driven and nothing is pending; loading leaves the outputs alone. -/
theorem invariantAtReset : Obligations.InvariantAtReset :=
  ⟨⟨outputsSettled_of_undriven rfl, rfl⟩,
    fun _ _ hout hp hwf => ⟨hout, (referencesExist_load_iff hp).mpr hwf⟩⟩

/-- Settles O48: `State.reset` names each of these fields. -/
theorem resetHoldsNothing : Obligations.ResetHoldsNothing := ⟨rfl, rfl, rfl, rfl⟩

end Sys2Proof.Safety
end

section
/-! PROOFS. The statement on 20_memory.md: the order of legal evaluations does not matter (R30). -/

namespace Sys2Proof.Machine

/-- Evaluating the ports settles what `eval` gives for them, a reserved code included (R12, R37). -/
theorem evaluate_eq_settle_eval (st : State) : evaluate st = st.settle (eval st.opw st.x st.s) := by
  obtain ⟨e, hdec, he⟩ | ⟨i, hdec, he⟩ := evaluate_cases st
  · simp [he, eval, hdec]
  · rw [he, eval_of_decode hdec]

end Sys2Proof.Machine

namespace Sys2Proof.Safety

open Sys2Proof.Machine

/-- The `y` that the pins show once an evaluation has settled (R17). -/
def settledY (e : Opw × Data × Count) : Data := (pins e.1 e.2.1 e.2.2).y

/-- The settled `y` of a legal evaluation is its result. -/
theorem settledY_of_eval_ok {e : Opw × Data × Count} {y : Data} (h : eval e.1 e.2.1 e.2.2 = .ok y) :
    settledY e = y := by
  simp only [settledY, pins_of_eval_ok h]

/-- An issue on the literal values of three ports presents those values. -/
theorem runItem_literalIssue (e : Opw × Data × Count) (rest : List HostItem) (st : State) :
    runItem (literalIssue e) rest st = sampled (evaluate ((st.advance rest).drive e.1 e.2.1 e.2.2)) := by
  simp [literalIssue, runItem, runIssue]

/-- A step on a legal literal issue takes it off the program and samples its settled `y`. -/
theorem step_literalIssue {st : State} {e : Opw × Data × Count} {rest : List HostItem}
    (hp : st.pending = literalIssue e :: rest) (hlegal : ∃ y, eval e.1 e.2.1 e.2.2 = .ok y) :
    ∃ t, step st = .next t ∧ t.pending = rest ∧ t.results = st.results ++ [settledY e] := by
  obtain ⟨y, hy⟩ := hlegal
  rw [step_of_cons hp, runItem_literalIssue, evaluate_eq_settle_eval]
  simp [hy, settledY_of_eval_ok hy]

/-- A program of legal literal issues runs to its end, and appends the settled `y` of each issue in turn: a result depends
on its own issue alone (R30). -/
theorem run_literalIssues {p : List (Opw × Data × Count)} {st : State} (hp : st.pending = p.map literalIssue)
    (hlegal : ∀ e ∈ p, ∃ y, eval e.1 e.2.1 e.2.2 = .ok y) :
    ∃ t, run p.length st = .next t ∧ t.results = st.results ++ p.map settledY := by
  induction p generalizing st with
  | nil => exact ⟨st, by simp⟩
  | cons e p ih =>
    obtain ⟨he, hlegal⟩ := List.forall_mem_cons.mp hlegal
    obtain ⟨u, hstep, hu, hres⟩ := step_literalIssue hp he
    obtain ⟨t, hrun, ht⟩ := ih hu hlegal
    exact ⟨t, (run_of_next hstep).trans hrun, by simp [ht, hres]⟩

/-- Settles O50: each run appends its evaluations' settled `y`, and mapping one function over two orders of a list gives
two orders of its values. -/
theorem orderOfEvaluationsDoesNotMatter : Obligations.OrderOfEvaluationsDoesNotMatter := by
  intro st p q hperm hlegal
  obtain ⟨t, hrun, ht⟩ := run_literalIssues (st := { st with pending := p.map literalIssue }) rfl hlegal
  obtain ⟨t', hrun', ht'⟩ := run_literalIssues (st := { st with pending := q.map literalIssue }) rfl
    fun e he => hlegal e (hperm.mem_iff.mpr he)
  exact ⟨t, t', p.map settledY, q.map settledY, hrun, hrun', ht, ht', hperm.map settledY, List.length_map _⟩

end Sys2Proof.Safety
end

section
/-! PROOFS. The statements on 30_encoding.md: the operation word (R34 to R37), operands and results (R38 to R41), and the
assembler (R43). -/

namespace Sys2Proof.Machine

/-! ### The fields of a word -/

/-- `{wsel, opc}` puts `opc` together again (R34). -/
theorem wselOf_append_opcOf (opw : Opw) : wselOf opw ++ opcOf opw = opw :=
  BitVec.extractLsb'_append_extractLsb' (w := 2) (len := 4)

/-- The width a `wsel` selects has that `wsel` (R35). -/
@[simp] theorem wselCode_widthOfWsel (wsel : BitVec 2) : wselCode (widthOfWsel wsel) = wsel := by
  revert wsel; decide

/-- The two ways a word decodes: by its two fields, or not at all, where its `opc` is reserved (R36, R37). -/
theorem decode_cases (opw : Opw) :
    ((opcOf opw).toNat < 11 ∧
      ∃ i, decode opw = .ok i ∧ opcCode i = opcOf opw ∧ i.width = widthOfWsel (wselOf opw)) ∨
    (11 ≤ (opcOf opw).toNat ∧ decode opw = .error (.reservedOp (opcOf opw))) := by
  simp only [decode]
  split
  case h_12 => exact .inr ⟨by grind, rfl⟩
  all_goals
    rename_i hopc
    exact .inl ⟨by omega, _, rfl, BitVec.eq_of_toNat_eq hopc.symm, rfl⟩

/-- A word that decodes holds its operation's two codes (R35, R36). -/
theorem fields_of_decode {opw : Opw} {i : Instr} (h : decode opw = .ok i) :
    opcCode i = opcOf opw ∧ i.width = widthOfWsel (wselOf opw) := by
  obtain ⟨-, j, hj, hfields⟩ | ⟨-, he⟩ := decode_cases opw
  · obtain rfl : j = i := by simpa [hj] using h
    exact hfields
  · simp [he] at h

/-- Encoding inverts decoding (R34 to R36). -/
theorem encode_of_decode {opw : Opw} {i : Instr} (h : decode opw = .ok i) : encode i = opw := by
  obtain ⟨hopc, hwidth⟩ := fields_of_decode h
  rw [encode, hopc, hwidth, wselCode_widthOfWsel, wselOf_append_opcOf]

/-- The word `{wsel, opc}` with the code of an operation is that operation, at the width `wsel` selects. -/
theorem decode_append_opcCode {wsel : BitVec 2} {i : Instr} (h : i.width = widthOfWsel wsel) :
    decode (wsel ++ opcCode i) = .ok i := by
  have hword : encode i = wsel ++ opcCode i := by rw [encode, h, wselCode_widthOfWsel]
  rw [← hword, decode_encode]

/-- A reserved code selects no operation (R37). -/
theorem decode_of_reserved {opw : Opw} (h : 11 ≤ (opcOf opw).toNat) :
    decode opw = .error (.reservedOp (opcOf opw)) := by
  obtain ⟨hlt, -⟩ | ⟨-, he⟩ := decode_cases opw
  · omega
  · exact he

/-- A reserved code evaluates to RESERVED_OP, whatever is on the other ports (R37). -/
theorem eval_of_reserved {opw : Opw} (h : 11 ≤ (opcOf opw).toNat) (x : Data) (s : Count) :
    eval opw x s = .fault .reservedOp := by
  simp only [eval, decode_of_reserved h]

/-- ROTL and ROTR read the count, and no other operation does (R36). -/
theorem readsCount_iff (i : Instr) : i.readsCount = true ↔ ∃ w, i = .rotl w ∨ i = .rotr w := by
  cases i <;> simp [Instr.readsCount]

/-- A step on an issue whose values exist samples what `eval` gives for them (R91, R96). -/
theorem step_of_presented {st : State} {k : Issue} {rest : List HostItem} {opw : Opw} {x : Data} {s : Count}
    (hp : st.pending = .issue k :: rest) (hk : presented st.results st.hostVals k = some (opw, x, s)) :
    step st = sampled (((st.advance rest).drive opw x s).settle (eval opw x s)) := by
  simp [step_of_cons hp, runItem, runIssue, hk, evaluate_eq_settle_eval]

/-! ### The statements on the word -/

/-- Settles O1: the two round trips. -/
theorem decodeAndEncodeAgree : Obligations.DecodeAndEncodeAgree := by
  intro opw i
  constructor
  · intro h
    exact (encode_of_decode h).symm
  · rintro rfl
    exact decode_encode i

/-- Settles O2: the table by evaluation; a word that decodes has its width from its field `wsel`. -/
theorem widthSelectTable : Obligations.WidthSelectTable := by
  refine ⟨rfl, rfl, rfl, rfl, ⟨rfl, rfl, rfl, rfl⟩, ⟨rfl, rfl, rfl, rfl⟩, by decide, ?_⟩
  intro opw i h
  obtain ⟨-, hwidth⟩ := fields_of_decode h
  exact hwidth

/-- Settles O3: each row is the word built from the row's own code. -/
theorem opcodeMap : Obligations.OpcodeMap :=
  ⟨fun wsel => ⟨decode_append_opcCode (i := .clz (widthOfWsel wsel)) rfl,
      decode_append_opcCode (i := .clo (widthOfWsel wsel)) rfl,
      decode_append_opcCode (i := .ctz (widthOfWsel wsel)) rfl,
      decode_append_opcCode (i := .cto (widthOfWsel wsel)) rfl,
      decode_append_opcCode (i := .popc (widthOfWsel wsel)) rfl,
      decode_append_opcCode (i := .bwid (widthOfWsel wsel)) rfl,
      decode_append_opcCode (i := .hsb (widthOfWsel wsel)) rfl,
      decode_append_opcCode (i := .bfloor (widthOfWsel wsel)) rfl,
      decode_append_opcCode (i := .bceil (widthOfWsel wsel)) rfl,
      decode_append_opcCode (i := .rotl (widthOfWsel wsel)) rfl,
      decode_append_opcCode (i := .rotr (widthOfWsel wsel)) rfl⟩,
    readsCount_iff⟩

/-- Settles O4: the two ways of `decode_cases`; the list is checked on the 64 words. -/
theorem reservedCodesRaiseReservedOp : Obligations.ReservedCodesRaiseReservedOp := by
  refine ⟨fun opw hlt => ?_, fun opw hres => ⟨fun i => ?_, eval_of_reserved hres, ?_⟩, by decide⟩
  · obtain ⟨-, i, hi, -⟩ | ⟨hres, -⟩ := decode_cases opw
    · exact ⟨i, hi⟩
    · exact absurd hlt (Nat.not_lt.mpr hres)
  · simp [decode_of_reserved hres]
  · rintro st rfl
    rw [evaluate_eq_settle_eval, eval_of_reserved hres, settle_fault]

/-- Settles O5: each word is the encoding of its operation. -/
theorem specWordsDecode : Obligations.SpecWordsDecode :=
  ⟨decode_encode (.clz .w32), decode_encode (.ctz .w64), decode_encode (.rotl .w8), decode_encode (.popc .w16),
    decode_encode (.bceil .w64), decode_encode (.hsb .w8)⟩

/-- Settles O40: the step samples the evaluation of the reserved code, which is a fault. -/
theorem stepFaultsOnReservedCode : Obligations.StepFaultsOnReservedCode := by
  intro st k rest opw x s hp hk hres
  rw [step_of_presented hp hk, eval_of_reserved hres, settle_fault, sampled_fault]

/-! ### Inputs that are not read -/

/-- The result of an operation depends on `x` through `xw` alone (R38), and on `s` only where it reads the count (R39). -/
theorem evalInstr_congr {i : Instr} {x x' : Data} {s s' : Count} (hx : operand i.width x = operand i.width x')
    (hs : i.readsCount = true → s = s') : evalInstr i x s = evalInstr i x' s' := by
  cases i with
  | clz w => exact congrArg (fun v => countResult (clzW w v)) hx
  | clo w => exact congrArg (fun v => countResult (clzW w (~~~v))) hx
  | ctz w => exact congrArg (fun v => countResult (ctzW w v)) hx
  | cto w => exact congrArg (fun v => countResult (ctzW w (~~~v))) hx
  | popc w => exact congrArg (fun v => countResult (ones v)) hx
  | bwid w => exact congrArg (fun v => countResult (bwidW w v)) hx
  | hsb w => exact congrArg (fun v => boolResult (hsbW w v)) hx
  | bfloor w => exact congrArg (fun v => valueResult (bfloorW w v)) hx
  | bceil w =>
    exact congrArg (fun v => if bceilOutOfRange w v then .fault .bceilRange else valueResult (bceilW w v)) hx
  | rotl w =>
    obtain rfl := hs rfl
    exact congrArg (fun v => valueResult (rotlW w v s)) hx
  | rotr w =>
    obtain rfl := hs rfl
    exact congrArg (fun v => valueResult (rotrW w v s)) hx

/-- Settles O20: `evalInstr_congr` for the operations; a reserved code is the same fault whatever is on the ports. -/
theorem unreadInputsHaveNoEffect : Obligations.UnreadInputsHaveNoEffect := by
  refine ⟨fun i x x' s s' hx hs => ?_, fun opw x x' s s' hres => ?_⟩
  · rw [eval_encode, eval_encode]
    exact evalInstr_congr hx fun h => hs ((readsCount_iff i).mp h)
  · rw [eval_of_reserved hres, eval_of_reserved hres]

/-! ### The bounds of the counts -/

/-- No entry of `LZ_LUT` is above 32 (R48). -/
theorem clz32_le (u : BitVec 32) : clz32 u ≤ 32 := by
  have hlut : ∀ r : Fin 37, lzLut[r] ≤ 32 := by decide
  exact hlut _

/-- No entry of `TZ_LUT` is above 32 (R49). -/
theorem ctz32_le (u : BitVec 32) : ctz32 u ≤ 32 := by
  have hlut : ∀ r : Fin 37, tzLut[r] ≤ 32 := by decide
  exact hlut _

/-- `neg_32(u) & u` is the lowest set bit alone (R52). -/
theorem lowestBit_eq_twoPow {u : BitVec 32} (h : u ≠ 0) : lowestBit u = BitVec.twoPow 32 (lb u) := by
  have hset := getLsbD_lb h
  refine BitVec.eq_of_getLsbD_eq fun i hi => ?_
  obtain hlt | rfl | hgt := lt_trichotomy i (lb u)
  · simp [lowestBit, BitVec.getLsbD_twoPow, getLsbD_of_lt_lb hlt, hlt.ne']
  · have hnone : ¬ ∃ j < lb u, u.getLsbD j = true := fun ⟨j, hj, hju⟩ => by simp [getLsbD_of_lt_lb hj] at hju
    simp [lowestBit, BitVec.getElem_neg, hset, hi, hnone]
  · have hsome : ∃ j < i, u.getLsbD j = true := ⟨lb u, hgt, hset⟩
    simp [lowestBit, BitVec.getElem_neg, hgt.ne', hi, hsome]

/-- The trailing-zero kernel gives the index of the lowest set bit (R52). -/
theorem ctz32_eq_lb {u : BitVec 32} (h : u ≠ 0) : ctz32 u = lb u := by
  have hlut : ∀ k < 32, decodeT (BitVec.twoPow 32 k) = k := by decide
  have hlt : lb u < 32 := BitVec.lt_of_getLsbD (getLsbD_lb h)
  rw [ctz32, lowestBit_eq_twoPow h, hlut _ hlt]

/-- A set bit bounds the trailing-zero kernel: this is how the sentinel works (R54). -/
theorem ctz32_le_of_getLsbD {u : BitVec 32} {k : Nat} (h : u.getLsbD k = true) : ctz32 u ≤ k := by
  have hne : u ≠ 0 := by rintro rfl; simp at h
  rw [ctz32_eq_lb hne]
  by_contra hlt
  simp [getLsbD_of_lt_lb (Nat.lt_of_not_le hlt)] at h

/-- A leading-zero count is at most W (R40, R53). -/
theorem clzW_le (w : Width) (v : BitVec w.bits) : clzW w v ≤ w.bits := by
  cases w with
  | w8 => exact Nat.sub_le_of_le_add (clz32_le _)
  | w16 => exact Nat.sub_le_of_le_add (clz32_le _)
  | w32 => exact clz32_le _
  | w64 =>
    have hhi := clz32_le (hiHalf v)
    have hlo := clz32_le (loHalf v)
    simp only [clzW, Width.bits]
    split <;> omega

/-- A trailing-zero count is at most W (R40, R54). -/
theorem ctzW_le (w : Width) (v : BitVec w.bits) : ctzW w v ≤ w.bits := by
  cases w with
  | w8 => exact ctz32_le_of_getLsbD (by simp [Width.bits])
  | w16 => exact ctz32_le_of_getLsbD (by simp [Width.bits])
  | w32 => exact ctz32_le _
  | w64 =>
    have hhi := ctz32_le (hiHalf v)
    have hlo := ctz32_le (loHalf v)
    simp only [ctzW, Width.bits]
    split <;> omega

/-! ### The forms of the results -/

section ResultForms

variable {i : Instr} {st t : State} {w : Width}

/-- A count on `y` is at most W, and needs seven bits of it (R40). -/
theorem countForm_of_exec {n : Nat} (h : exec i st = .next t) (hi : evalInstr i st.x st.s = countResult n)
    (hn : n ≤ w.bits) : t.y.toNat ≤ w.bits ∧ t.y.extractLsb' 7 57 = 0 ∧ t.cv = false ∧ t.cvc = 0 := by
  obtain ⟨y, hy, rfl⟩ := exec_eq_next_iff.mp h
  obtain rfl : BitVec.ofNat 64 n = y := by simpa [hi, countResult] using hy
  obtain ⟨-, hbits⟩ := bits_bounds w
  have hy : (BitVec.ofNat 64 n).toNat = n := by
    rw [BitVec.toNat_ofNat]
    omega
  refine ⟨by simpa only [State.deliver_y, hy] using hn, BitVec.eq_of_toNat_eq ?_, rfl, rfl⟩
  rw [State.deliver_y, BitVec.extractLsb'_toNat, hy, Nat.shiftRight_eq_div_pow, Nat.div_eq_of_lt (by omega)]
  rfl

/-- A Boolean on `y` is 0 or 1 (R40). -/
theorem boolForm_of_exec {b : Bool} (h : exec i st = .next t) (hi : evalInstr i st.x st.s = boolResult b) :
    (t.y = 0 ∨ t.y = 1) ∧ t.cv = false ∧ t.cvc = 0 := by
  obtain ⟨y, hy, rfl⟩ := exec_eq_next_iff.mp h
  obtain rfl : (if b then 1 else 0) = y := by simpa [hi, boolResult] using hy
  cases b <;> simp

/-- A zero-extended W-bit value on `y` is below `2^W` (R40). -/
theorem valueForm_of_exec {r : BitVec w.bits} (h : exec i st = .next t)
    (hi : evalInstr i st.x st.s = valueResult r) : t.y.toNat < 2 ^ w.bits ∧ t.cv = false ∧ t.cvc = 0 := by
  obtain ⟨y, hy, rfl⟩ := exec_eq_next_iff.mp h
  obtain rfl : r.setWidth 64 = y := by simpa [hi, valueResult] using hy
  refine ⟨?_, rfl, rfl⟩
  rw [State.deliver_y, BitVec.toNat_setWidth]
  exact (Nat.mod_le _ _).trans_lt r.isLt

/-- BCEIL gives a value wherever it does not fault (R69). -/
theorem evalInstr_bceil_of_exec (h : exec (.bceil w) st = .next t) :
    evalInstr (.bceil w) st.x st.s = valueResult (bceilW w (operand w st.x)) := by
  obtain ⟨y, hy, -⟩ := exec_eq_next_iff.mp h
  simp only [evalInstr, evalBceil] at hy ⊢
  split at hy
  case isTrue => cases hy
  case isFalse hlegal => exact if_neg hlegal

end ResultForms

/-- Settles O19: each operation's result is a count of at most W, a Boolean or a W-bit value. -/
theorem resultForms : Obligations.ResultForms := by
  intro w st t
  refine ⟨?_, fun h => boolForm_of_exec h rfl, ?_⟩
  · rintro (h | h | h | h | h | h)
    · exact countForm_of_exec h rfl (clzW_le w _)
    · exact countForm_of_exec h rfl (clzW_le w _)
    · exact countForm_of_exec h rfl (ctzW_le w _)
    · exact countForm_of_exec h rfl (ctzW_le w _)
    · exact countForm_of_exec h rfl (onesBelow_le _ _)
    · exact countForm_of_exec h rfl (Nat.sub_le _ _)
  · rintro (h | h | h | h)
    · exact valueForm_of_exec h rfl
    · exact valueForm_of_exec h (evalInstr_bceil_of_exec h)
    · exact valueForm_of_exec h rfl
    · exact valueForm_of_exec h rfl

/-! ### Cutting a line -/

/-- A line is cut at its first `c`. -/
theorem cut_append_cons {c : Char} {t : Text} (h : c ∉ t) (u : Text) : cut c (t ++ c :: u) = (t, u) := by
  induction t with
  | nil => simp [cut]
  | cons d t ih =>
    obtain ⟨hd, ht⟩ := not_or.mp (mt List.mem_cons.mpr h)
    simp [cut, ih ht, Ne.symm hd]

/-! ### Reading written numbers -/

/-- Digits are read from the left. -/
theorem readDigits_append (base acc : Nat) (t u : Text) :
    readDigits base acc (t ++ u) = (readDigits base acc t).bind fun m => readDigits base m u := by
  induction t generalizing acc with
  | nil => rfl
  | cons c t ih =>
    simp only [List.cons_append, readDigits]
    cases digitValue base c with
    | none => rfl
    | some d => exact ih _

/-- Written digits read back, after digits of value `acc`, in a base whose digits do. -/
theorem readDigits_writeDigits {base k n : Nat} (hdigit : ∀ d < base, digitValue base (digitChar d) = some d)
    (hn : n < base ^ k) (acc : Nat) : readDigits base acc (writeDigits base k n) = some (acc * base ^ k + n) := by
  induction k generalizing n with
  | zero =>
    obtain rfl : n = 0 := by simpa using hn
    simp [writeDigits, readDigits]
  | succ k ih =>
    have hbase : 0 < base := Nat.pos_of_ne_zero (by rintro rfl; simp at hn)
    have hdiv : n / base < base ^ k := Nat.div_lt_of_lt_mul (by rwa [← Nat.pow_succ'])
    have hvalue : (acc * base ^ k + n / base) * base + n % base = acc * base ^ (k + 1) + n := by
      calc (acc * base ^ k + n / base) * base + n % base
          = acc * base ^ (k + 1) + (base * (n / base) + n % base) := by ring
        _ = acc * base ^ (k + 1) + n := by rw [Nat.div_add_mod]
    simp [writeDigits, readDigits_append, ih hdiv, readDigits, hdigit _ (Nat.mod_lt n hbase), hvalue]

/-- At least one written digit reads back as a number. -/
theorem readNumber_writeDigits {base k n : Nat} (hdigit : ∀ d < base, digitValue base (digitChar d) = some d)
    (hn : n < base ^ (k + 1)) : readNumber base (writeDigits base (k + 1) n) = some n := by
  have hread := readDigits_writeDigits hdigit hn 0
  cases hw : writeDigits base (k + 1) n with
  | nil => simp [writeDigits] at hw
  | cons c t => simpa [readNumber, hw] using hread

/-- Written digits hold no character that is no digit. -/
theorem not_mem_writeDigits {base : Nat} {c : Char} (hbase : 0 < base) (hc : ∀ d < base, c ≠ digitChar d) (k n : Nat) :
    c ∉ writeDigits base k n := by
  induction k generalizing n with
  | zero => simp [writeDigits]
  | succ k ih => simp [writeDigits, ih, hc _ (Nat.mod_lt n hbase)]

/-! ### Reading written operands -/

/-- A written operand reads back (R43). -/
theorem readX_writeX (x : Data) : readX (writeX x) = some (.lit x) := by
  have hlt := x.isLt
  have hread : readUnsigned (writeX x) = some x.toNat := by
    rw [writeX, readUnsigned, readNumber_writeDigits (k := 15) (by decide) (by omega)]
  unfold readX
  split
  case h_1 h => simp [writeX] at h
  case h_2 h => simp [writeX] at h
  case h_3 => simp only [hread, hlt, if_true, BitVec.ofNat_toNat, BitVec.setWidth_eq]

/-- There is no comma in a written operand. -/
theorem comma_not_mem_writeX (x : Data) : ',' ∉ writeX x := by
  simp [writeX, not_mem_writeDigits (base := 16) (c := ',') (by decide) (by decide)]

/-- Digits after a minus sign are read as a negative number (R43). -/
theorem readSigned_minus {t : Text} {n : Nat} (h : readNumber 10 t = some n) :
    readSigned ('-' :: t) = some (-(n : Int)) := by
  simp [readSigned, h]

/-- Digits without a minus sign are read as a number of no sign (R43). -/
theorem readSigned_of_not_mem {t : Text} {n : Nat} (hsign : '-' ∉ t) (h : readNumber 10 t = some n) :
    readSigned t = some (n : Int) := by
  unfold readSigned
  split
  case h_1 => simp at hsign
  case h_2 => simp [h]

/-- A written count reads back as its signed value (R39, R43). -/
theorem readSigned_writeS (s : Count) : readSigned (writeS s) = some s.toInt := by
  have hdigit : ∀ d < 10, digitValue 10 (digitChar d) = some d := by decide
  have hlt := s.isLt
  rw [BitVec.toInt_eq_msb_cond, writeS]
  split
  case isTrue hneg =>
    have hmsb := BitVec.msb_eq_true_iff_two_mul_ge.mp hneg
    have habs : (-s).toNat = 2 ^ 32 - s.toNat := by
      rw [BitVec.toNat_neg]
      omega
    have hvalue : -((-s).toNat : Int) = s.toNat - (2 ^ 32 : Nat) := by omega
    rw [readSigned_minus (readNumber_writeDigits hdigit (by omega)), hvalue]
  case isFalse hpos =>
    have hsign : '-' ∉ writeDigits 10 10 s.toNat := not_mem_writeDigits (by decide) (by decide) _ _
    exact readSigned_of_not_mem hsign (readNumber_writeDigits hdigit (by omega))

/-- A count that names no result and no host value is a signed literal in the range of R43. -/
theorem readS_of_not_mem {t : Text} {n : Int} (hy : 'y' ∉ t) (hh : 'h' ∉ t) (hn : readSigned t = some n)
    (hlo : -2147483648 ≤ n) (hhi : n ≤ 2147483647) : readS t = some (.lit (BitVec.ofInt 64 n)) := by
  unfold readS
  split
  case h_1 => simp at hy
  case h_2 => simp at hh
  case h_3 => simp [hn, hlo, hhi]

/-- A character that is no decimal digit and no minus sign is not in a written count. -/
theorem not_mem_writeS {c : Char} (hsign : c ≠ '-') (hc : ∀ d < 10, c ≠ digitChar d) (s : Count) : c ∉ writeS s := by
  rw [writeS]
  split <;> simp [hsign, not_mem_writeDigits (by decide) hc]

/-- A written count reads back, sign-extended (R39, R43). -/
theorem readS_writeS (s : Count) : readS (writeS s) = some (.lit (s.signExtend 64)) := by
  have hlo := s.le_toInt
  have hhi := s.toInt_lt
  exact readS_of_not_mem (not_mem_writeS (by decide) (by decide) s) (not_mem_writeS (by decide) (by decide) s)
    (readSigned_writeS s) (by omega) (by omega)

/-! ### Reading a written line -/

/-- A mnemonic stands in the table beside its operation (R36, R43). -/
theorem lookup_mnemonic (i : Instr) : ∃ mk, mnemonicTable.lookup (mnemonic i) = some mk ∧ mk i.width = i := by
  cases i <;> exact ⟨_, rfl, rfl⟩

/-- A written width reads back (R43). -/
theorem readWidth_writeWidth (w : Width) : readWidth (writeWidth w) = some w := by
  cases w <;> decide

/-- A mnemonic holds no full stop. -/
theorem dot_not_mem_mnemonic (i : Instr) : '.' ∉ mnemonic i := by
  cases i <;> simp [mnemonic]

/-- A mnemonic with a width holds no blank. -/
theorem blank_not_mem_operation (i : Instr) : ' ' ∉ mnemonic i ++ '.' :: writeWidth i.width := by
  have hmn : ' ' ∉ mnemonic i := by cases i <;> simp [mnemonic]
  have hw : ' ' ∉ writeWidth i.width := by cases i.width <;> simp [writeWidth]
  simp [hmn, hw]

/-- `<mnemonic>.<W>` reads back (R43). -/
theorem readOperation_mnemonic_width (i : Instr) : readOperation (mnemonic i ++ '.' :: writeWidth i.width) = some i := by
  obtain ⟨mk, hlookup, hmk⟩ := lookup_mnemonic i
  simp [readOperation, cut_append_cons (dot_not_mem_mnemonic i), hlookup, readWidth_writeWidth, hmk]

/-- The operands of an operation that reads the count: `<x>, <s>` (R43). -/
theorem readOperands_writeX_writeS {i : Instr} (h : i.readsCount = true) (x : Data) (s : Count) :
    readOperands i (writeX x ++ ',' :: ' ' :: writeS s) = some (issueOf i (.lit x) (.lit (s.signExtend 64))) := by
  simp [readOperands, h, cut_append_cons (comma_not_mem_writeX x), readX_writeX, readS_writeS]

/-- The operand of an operation that does not: `<x>` (R43). -/
theorem readOperands_writeX {i : Instr} (h : i.readsCount = false) (x : Data) :
    readOperands i (writeX x) = some (issueOf i (.lit x) (.lit 0)) := by
  simp [readOperands, h, readX_writeX]

/-- A line is read as an operation and, after the first blank, its operands (R43). -/
theorem assemble_operation (i : Instr) (operands : Text) :
    assemble (mnemonic i ++ '.' :: writeWidth i.width ++ ' ' :: operands) = readOperands i operands := by
  simp only [assemble, cut_append_cons (blank_not_mem_operation i), readOperation_mnemonic_width]

/-- Settles O51: the operation and each operand reads back. -/
theorem assemblyReadsBack : Obligations.AssemblyReadsBack := by
  intro i x s
  rw [writeLine, List.append_assoc, List.cons_append, assemble_operation]
  cases h : i.readsCount with
  | true => exact readOperands_writeX_writeS h x s
  | false =>
    simp only [Bool.false_eq_true, if_false, List.append_nil]
    exact readOperands_writeX h x

/-- Settles O52: each line is read by evaluation. -/
theorem specLinesAssemble : Obligations.SpecLinesAssemble :=
  ⟨by decide, by decide, by decide, by decide, by decide, by decide, by decide⟩

end Sys2Proof.Machine
end

section
/-! PROOFS. The statements on 40_zero_count.md: the smear, the modulo-37 reducer and the two tables (R45 to R50), the
kernels and the counts at each width (R51 to R55), and CLZ, CLO, CTZ, CTO (R56 to R59). -/

namespace Sys2Proof.Machine

open Sys2Proof.Safety

/-! ### The highest and the lowest set bit -/

section ExtremeBits

variable {n k : Nat} {v : BitVec n}

/-- The highest set bit of a nonzero value is below its width. -/
theorem hb_lt (h : v ≠ 0) : hb v < n := BitVec.lt_of_getLsbD (getLsbD_hb h)

/-- A set bit is in a nonzero value. -/
theorem ne_zero_of_getLsbD (hset : v.getLsbD k = true) : v ≠ 0 := by
  rintro rfl
  simp at hset

/-- No set bit is above `hb v`. -/
theorem le_hb_of_getLsbD (hset : v.getLsbD k = true) : k ≤ hb v := by
  by_contra hlt
  simp [getLsbD_of_hb_lt (Nat.lt_of_not_le hlt)] at hset

/-- No set bit is below `lb v`. -/
theorem lb_le_of_getLsbD (hset : v.getLsbD k = true) : lb v ≤ k := by
  by_contra hlt
  simp [getLsbD_of_lt_lb (Nat.lt_of_not_le hlt)] at hset

/-- A set bit with no set bit above it is `hb v`. -/
theorem hb_eq_of_getLsbD (hset : v.getLsbD k = true) (habove : ∀ j, k < j → v.getLsbD j = false) : hb v = k := by
  refine Nat.le_antisymm ?_ (le_hb_of_getLsbD hset)
  by_contra hlt
  have hclear := habove _ (Nat.lt_of_not_le hlt)
  simp [getLsbD_hb (ne_zero_of_getLsbD hset)] at hclear

/-- A set bit with no set bit below it is `lb v`. -/
theorem lb_eq_of_getLsbD (hset : v.getLsbD k = true) (hbelow : ∀ j, j < k → v.getLsbD j = false) : lb v = k := by
  refine Nat.le_antisymm (lb_le_of_getLsbD hset) ?_
  by_contra hlt
  have hclear := hbelow _ (Nat.lt_of_not_le hlt)
  simp [getLsbD_lb (ne_zero_of_getLsbD hset)] at hclear

end ExtremeBits

/-! ### The smear -/

section Smear

variable {n k : Nat} {u v : BitVec n}

/-- `u` has a one exactly where `v` has one among the `k` bits from there up: what the smear has reached when each run
of ones below a set bit is `k` long. -/
def SmearedBy (k : Nat) (v u : BitVec n) : Prop :=
  ∀ i, u.getLsbD i = true ↔ ∃ d < k, v.getLsbD (i + d) = true

/-- Before the first stage each set bit stands for itself. -/
theorem smearedBy_one (v : BitVec n) : SmearedBy 1 v v := by
  intro i
  simp

/-- Each stage doubles the runs of ones (R45). -/
theorem SmearedBy.stage (h : SmearedBy k v u) : SmearedBy (2 * k) v (u ||| u >>> k) := by
  intro i
  rw [BitVec.getLsbD_or, BitVec.getLsbD_ushiftRight, Bool.or_eq_true, h i, h (k + i)]
  constructor
  · rintro (⟨d, hd, hset⟩ | ⟨d, hd, hset⟩)
    · exact ⟨d, by omega, hset⟩
    · exact ⟨k + d, by omega, by rwa [show i + (k + d) = k + i + d by omega]⟩
  · rintro ⟨d, hd, hset⟩
    obtain hlt | hge := lt_or_ge d k
    · exact .inl ⟨d, hlt, hset⟩
    · exact .inr ⟨d - k, by omega, by rwa [show k + i + (d - k) = i + d by omega]⟩

/-- Runs as long as the word fill everything below the highest set bit. -/
theorem SmearedBy.toNat_eq (h : SmearedBy n v u) (hv : v ≠ 0) : u.toNat = 2 ^ (hb v + 1) - 1 := by
  refine Nat.eq_of_testBit_eq fun i => ?_
  rw [Nat.testBit_two_pow_sub_one, BitVec.testBit_toNat, Bool.eq_iff_iff, h i, decide_eq_true_iff]
  constructor
  · rintro ⟨d, -, hset⟩
    have hle := le_hb_of_getLsbD hset
    omega
  · intro hi
    have hlt := hb_lt hv
    exact ⟨hb v - i, by omega, by rw [show i + (hb v - i) = hb v by omega]; exact getLsbD_hb hv⟩

/-- Five stages fill 32 bits (R45). -/
theorem smearedBy_smear32 (v : BitVec 32) : SmearedBy 32 v (smear32 v) :=
  (smearedBy_one v).stage.stage.stage.stage.stage

/-- Six stages fill 64 bits (R45). -/
theorem smearedBy_smear64 (v : BitVec 64) : SmearedBy 64 v (smear64 v) :=
  (smearedBy_one v).stage.stage.stage.stage.stage.stage

/-- The number of ones in the smear of `v`: all bits up to the highest set one (R45). -/
def smearLength (v : BitVec 32) : Nat := if v = 0 then 0 else hb v + 1

/-- The smear of a nonzero value has a one for each bit up to the highest set one. -/
theorem smearLength_of_ne_zero {v : BitVec 32} (h : v ≠ 0) : smearLength v = hb v + 1 := if_neg h

/-- The smear has at most 32 ones. -/
theorem smearLength_le (v : BitVec 32) : smearLength v ≤ 32 := by
  obtain rfl | hne := eq_or_ne v 0
  · decide
  · rw [smearLength_of_ne_zero hne]
    exact hb_lt hne

/-- A smeared value is `2^m - 1` (R45). -/
theorem smear32_eq_ofNat (v : BitVec 32) : smear32 v = BitVec.ofNat 32 (2 ^ smearLength v - 1) := by
  obtain rfl | hne := eq_or_ne v 0
  · rfl
  · rw [smearLength_of_ne_zero hne, ← (smearedBy_smear32 v).toNat_eq hne, BitVec.ofNat_toNat, BitVec.setWidth_eq]

end Smear

/-- `2^m - 1` with `m` at most 32 fits in 32 bits. -/
theorem toNat_ofNat_two_pow_sub_one {m : Nat} (h : m ≤ 32) : (BitVec.ofNat 32 (2 ^ m - 1)).toNat = 2 ^ m - 1 := by
  have hpow : 2 ^ m ≤ 2 ^ 32 := Nat.pow_le_pow_right (by decide) h
  have hpos : 0 < 2 ^ m := Nat.two_pow_pos m
  rw [BitVec.toNat_ofNat, Nat.mod_eq_of_lt (by omega)]

/-- A smeared value as a number (R45). -/
theorem toNat_smear32 (v : BitVec 32) : (smear32 v).toNat = 2 ^ smearLength v - 1 := by
  rw [smear32_eq_ofNat, toNat_ofNat_two_pow_sub_one (smearLength_le v)]

/-- Settles O28: runs of ones as long as the word, doubled stage by stage. -/
theorem smearFillsBelowTheHighestBit : Obligations.SmearFillsBelowTheHighestBit :=
  ⟨rfl, rfl, fun v h => (smearedBy_smear32 v).toNat_eq h, fun v h => (smearedBy_smear64 v).toNat_eq h,
    fun v => ⟨smearLength v, smearLength_le v, toNat_smear32 v⟩⟩

/-! ### The modulo-37 reducer -/

/-- The reducer gives the residue of the value (R46). -/
@[simp] theorem val_residue37 (v : BitVec 32) : (residue37 v).val = v.toNat % 37 := rfl

/-- A read path reads its table at the residue (R46, R50). -/
theorem getElem?_residue (lut : Vector Nat 37) (v : BitVec 32) :
    lut.toList[v.toNat % 37]? = some (lutRead lut v) := by
  have hlt : v.toNat % 37 < lut.toList.length := by
    rw [Vector.length_toList]
    exact Nat.mod_lt _ (by decide)
  rw [List.getElem?_eq_getElem hlt]
  rfl

/-- Settles O53: the residue by definition; each number up to 36 is its own residue. -/
theorem reducerGivesTheResidue : Obligations.ReducerGivesTheResidue := by
  refine ⟨fun v => ⟨rfl, Nat.le_of_lt_succ (residue37 v).isLt⟩, fun r hr => ⟨BitVec.ofNat 32 r, ?_⟩,
    getElem?_residue, fun u => ⟨getElem?_residue _ _, getElem?_residue _ _⟩⟩
  rw [val_residue37, BitVec.toNat_ofNat]
  omega

/-- No power of two is a multiple of 37 (R47). -/
theorem two_pow_mod_37_ne_zero (k : Nat) : 2 ^ k % 37 ≠ 0 := by
  intro h
  have hdvd : 37 ∣ 2 := Nat.Prime.dvd_of_dvd_pow (by norm_num) (Nat.dvd_of_mod_eq_zero h)
  omega

/-- The powers of two have period 36 modulo 37 (R47). -/
theorem two_pow_add_36_mod_37 (k : Nat) : 2 ^ (k + 36) % 37 = 2 ^ k % 37 := by
  rw [pow_add]
  omega

/-- The period is no smaller than 36 (R47). -/
theorem eq_zero_of_two_pow_mod_37_eq_one : ∀ k, k < 36 → 2 ^ k % 37 = 1 → k = 0 := by decide

/-- Below the period the residues are distinct: two equal ones would make a smaller period (R47). -/
theorem two_pow_mod_37_inj {k j : Nat} (hk : k < 36) (hj : j < 36) (h : 2 ^ k % 37 = 2 ^ j % 37) : k = j := by
  wlog hle : k ≤ j generalizing k j
  · exact (this hj hk h.symm (Nat.le_of_not_le hle)).symm
  obtain ⟨d, rfl⟩ := Nat.exists_eq_add_of_le hle
  have hcoprime : Nat.gcd 37 (2 ^ k) = 1 := Nat.Coprime.pow_right k (by decide)
  have hone : 1 ≡ 2 ^ d [MOD 37] :=
    Nat.ModEq.cancel_left_of_coprime hcoprime (by rwa [mul_one, ← pow_add])
  have hd := eq_zero_of_two_pow_mod_37_eq_one d (by omega) hone.symm
  omega

/-- The residue of an isolated bit (R47). -/
theorem val_residue37_two_pow {k : Nat} (h : k < 32) :
    (residue37 (BitVec.ofNat 32 (2 ^ k))).val = 2 ^ k % 37 := by
  rw [val_residue37, BitVec.toNat_ofNat, Nat.mod_eq_of_lt (Nat.pow_lt_pow_right (by decide) h)]

/-- The residue of a smeared value (R47). -/
theorem val_residue37_two_pow_sub_one {m : Nat} (h : m ≤ 32) :
    (residue37 (BitVec.ofNat 32 (2 ^ m - 1))).val = 2 ^ m % 37 - 1 := by
  have hpred : ∀ n : Nat, n % 37 ≠ 0 → (n - 1) % 37 = n % 37 - 1 := by omega
  rw [val_residue37, toNat_ofNat_two_pow_sub_one h, hpred _ (two_pow_mod_37_ne_zero m)]

/-- The residues of the powers of two, as R47 lists them. -/
def residueTable : List Nat :=
  [1, 2, 4, 8, 16, 32, 27, 17, 34, 31, 25, 13, 26, 15, 30, 23, 9, 18, 36, 35, 33, 29, 21, 5, 10, 20, 3, 6, 12, 24, 11,
    22, 7, 14, 28, 19]

/-- R47's list holds the residues of the first 36 powers of two. -/
theorem map_two_pow_mod_37 : ((List.range 36).map fun k => 2 ^ k % 37) = residueTable := by decide

/-- Every residue but 0 is that of one of the first 36 powers of two (R47). -/
theorem exists_two_pow_mod_37 {r : Nat} (hpos : 1 ≤ r) (hle : r ≤ 36) : ∃ k, k < 36 ∧ 2 ^ k % 37 = r := by
  have hall : ∀ r ≤ 36, 1 ≤ r → r ∈ residueTable := by decide
  have hmem := hall r hle hpos
  rw [← map_two_pow_mod_37, List.mem_map] at hmem
  obtain ⟨k, hk, hr⟩ := hmem
  exact ⟨k, List.mem_range.mp hk, hr⟩

/-- Settles O29: distinct from the period, complete from R47's list, and the reducer's values from those. -/
theorem powersOfTwoModulo37 : Obligations.PowersOfTwoModulo37 := by
  refine ⟨map_two_pow_mod_37, two_pow_add_36_mod_37, eq_zero_of_two_pow_mod_37_eq_one, two_pow_mod_37_ne_zero,
    fun r hpos hle => ?_, by decide, fun _ => val_residue37_two_pow_sub_one, fun k j hk hj h => ?_, fun k hk h => ?_,
    fun m n hm hn h => ?_⟩
  · obtain ⟨k, hk, hr⟩ := exists_two_pow_mod_37 hpos hle
    exact ⟨k, hk, hr, fun j hj hjr => two_pow_mod_37_inj hj hk (hjr.trans hr.symm)⟩
  · have hval := congrArg Fin.val h
    rw [val_residue37_two_pow hk, val_residue37_two_pow hj] at hval
    exact two_pow_mod_37_inj (by omega) (by omega) hval
  · have hval := congrArg Fin.val h
    rw [val_residue37_two_pow hk] at hval
    exact two_pow_mod_37_ne_zero k hval
  · have hval := congrArg Fin.val h
    rw [val_residue37_two_pow_sub_one hm, val_residue37_two_pow_sub_one hn] at hval
    have hm0 := two_pow_mod_37_ne_zero m
    have hn0 := two_pow_mod_37_ne_zero n
    exact two_pow_mod_37_inj (by omega) (by omega) (by omega)

/-! ### The tables -/

/-- The entry of `LZ_LUT` for a smeared value is its leading-zero count (R48). -/
theorem lutRead_lzLut_two_pow_sub_one : ∀ m, m ≤ 32 → lutRead lzLut (BitVec.ofNat 32 (2 ^ m - 1)) = 32 - m := by
  decide

/-- The entry of `TZ_LUT` for an isolated bit is its index (R49). -/
theorem lutRead_tzLut_two_pow : ∀ k, k < 32 → lutRead tzLut (BitVec.ofNat 32 (2 ^ k)) = k := by decide

/-- No smeared value has the residue of an unused entry of `LZ_LUT` (R48). -/
theorem two_pow_sub_one_mod_37_notMem_unused : ∀ m, m ≤ 32 → (2 ^ m - 1) % 37 ∉ [13, 18, 27, 36] := by decide

/-- No isolated bit has the residue 0 or that of an unused entry of `TZ_LUT` (R49). -/
theorem two_pow_mod_37_notMem_unused : ∀ k, k < 32 → 2 ^ k % 37 ∉ [0, 7, 14, 19, 28] := by decide

/-- Settles O30: the entries and the indices reached, for the 33 smeared values. -/
theorem leadingZeroTable : Obligations.LeadingZeroTable :=
  ⟨lutRead_lzLut_two_pow_sub_one, rfl, two_pow_sub_one_mod_37_notMem_unused⟩

/-- Settles O31: the entries and the indices reached, for the 32 isolated bits. -/
theorem trailingZeroTable : Obligations.TrailingZeroTable :=
  ⟨lutRead_tzLut_two_pow, rfl, rfl, two_pow_mod_37_notMem_unused, rfl, rfl⟩

/-- `LZ_LUT` is read at used entries only (R50). -/
theorem residue37_smear32_notMem_unused (u : BitVec 32) : (residue37 (smear32 u)).val ∉ [13, 18, 27, 36] := by
  rw [val_residue37, toNat_smear32]
  exact two_pow_sub_one_mod_37_notMem_unused _ (smearLength_le u)

/-- `TZ_LUT` is read at used entries only (R50). -/
theorem residue37_lowestBit_notMem_unused (u : BitVec 32) : (residue37 (lowestBit u)).val ∉ [7, 14, 19, 28] := by
  obtain rfl | hne := eq_or_ne u 0
  · decide
  · have hlt : lb u < 32 := BitVec.lt_of_getLsbD (getLsbD_lb hne)
    rw [lowestBit_eq_twoPow hne, val_residue37, BitVec.toNat_twoPow_of_lt hlt]
    exact List.not_mem_of_not_mem_cons (two_pow_mod_37_notMem_unused _ hlt)

/-- Settles O32: the kernels read used entries only. -/
theorem unusedTableEntriesAreNeverRead : Obligations.UnusedTableEntriesAreNeverRead :=
  ⟨fun _ hagree u => hagree _ (residue37_smear32_notMem_unused u),
    fun _ hagree u => hagree _ (residue37_lowestBit_notMem_unused u)⟩

/-! ### The plain counts -/

section PlainCounts

variable {n : Nat} {v : BitVec n}

/-- A zero value has W leading zeros. -/
@[simp] theorem plainClz_zero (n : Nat) : plainClz 0#n = n := if_pos rfl

/-- A zero value has W trailing zeros. -/
@[simp] theorem plainCtz_zero (n : Nat) : plainCtz 0#n = n := if_pos rfl

/-- The leading zeros of a nonzero value are above its highest set bit. -/
theorem plainClz_of_ne_zero (h : v ≠ 0) : plainClz v = n - 1 - hb v := if_neg h

/-- The trailing zeros of a nonzero value are below its lowest set bit. -/
theorem plainCtz_of_ne_zero (h : v ≠ 0) : plainCtz v = lb v := if_neg h

/-- A set bit with clear bits above it gives the leading-zero count. -/
theorem plainClz_of_getLsbD {k : Nat} (hset : v.getLsbD k = true) (habove : ∀ j, k < j → v.getLsbD j = false) :
    plainClz v = n - 1 - k := by
  rw [plainClz_of_ne_zero (ne_zero_of_getLsbD hset), hb_eq_of_getLsbD hset habove]

/-- The top bit set leaves no leading zero. -/
theorem plainClz_of_msb (h : v.msb = true) : plainClz v = 0 := by
  rw [BitVec.msb_eq_getLsbD_last] at h
  rw [plainClz_of_getLsbD h fun j hj => BitVec.getLsbD_of_ge v j (by omega), Nat.sub_self]

/-- A set bit with clear bits below it gives the trailing-zero count. -/
theorem plainCtz_of_getLsbD {k : Nat} (hset : v.getLsbD k = true) (hbelow : ∀ j, j < k → v.getLsbD j = false) :
    plainCtz v = k := by
  rw [plainCtz_of_ne_zero (ne_zero_of_getLsbD hset), lb_eq_of_getLsbD hset hbelow]

/-- Bit 0 set leaves no trailing zero. -/
theorem plainCtz_of_getLsbD_zero (h : v.getLsbD 0 = true) : plainCtz v = 0 :=
  plainCtz_of_getLsbD h (by simp)

/-- The top bit alone has W - 1 trailing zeros. -/
theorem plainCtz_of_toNat (h : v.toNat = 2 ^ (n - 1)) : plainCtz v = n - 1 := by
  refine plainCtz_of_getLsbD ?_ fun j hj => ?_
  · rw [← BitVec.testBit_toNat, h, Nat.testBit_two_pow_self]
  · rw [← BitVec.testBit_toNat, h, Nat.testBit_two_pow_of_ne (by omega)]

end PlainCounts

/-! ### The kernels -/

/-- The leading-zero kernel gives the plain count (R51, R55). -/
theorem clz32_eq_plainClz (u : BitVec 32) : clz32 u = plainClz u := by
  obtain rfl | hne := eq_or_ne u 0
  · rfl
  · have hlt := hb_lt hne
    rw [clz32, decodeL, smear32_eq_ofNat, lutRead_lzLut_two_pow_sub_one _ (smearLength_le u),
      smearLength_of_ne_zero hne, plainClz_of_ne_zero hne]
    omega

/-- The trailing-zero kernel gives the plain count (R52, R55). -/
theorem ctz32_eq_plainCtz (u : BitVec 32) : ctz32 u = plainCtz u := by
  obtain rfl | hne := eq_or_ne u 0
  · rfl
  · rw [ctz32_eq_lb hne, plainCtz_of_ne_zero hne]

/-! ### Widening and halves -/

section Widening

variable {m n : Nat}

/-- Widening adds the extra width to the leading-zero count (R53). -/
theorem plainClz_setWidth (hle : n ≤ m) (v : BitVec n) : plainClz (v.setWidth m) = plainClz v + (m - n) := by
  obtain rfl | hne := eq_or_ne v 0#n
  · rw [BitVec.setWidth_zero, plainClz_zero, plainClz_zero]
    omega
  · have hlt := hb_lt hne
    have hset : (v.setWidth m).getLsbD (hb v) = true := by
      simpa [getLsbD_hb hne] using hlt.trans_le hle
    have habove : ∀ j, hb v < j → (v.setWidth m).getLsbD j = false := fun j hj => by
      simp [getLsbD_of_hb_lt hj]
    rw [plainClz_of_getLsbD hset habove, plainClz_of_ne_zero hne]
    omega

/-- The sentinel is one more set bit, at bit W (R54). -/
theorem getLsbD_or_sentinel (hlt : n < m) (v : BitVec n) (j : Nat) :
    (v.setWidth m ||| 1#m <<< n).getLsbD j = (v.getLsbD j || decide (j = n)) := by
  have hlow : v.getLsbD j = true → j < m := fun h => (BitVec.lt_of_getLsbD h).trans hlt
  rw [← BitVec.twoPow_eq, BitVec.getLsbD_or, BitVec.getLsbD_setWidth, BitVec.getLsbD_twoPow, Bool.eq_iff_iff]
  simp only [hlt, decide_true, Bool.true_and, Bool.or_eq_true, Bool.and_eq_true, decide_eq_true_iff,
    and_iff_right_of_imp hlow, eq_comm (a := n)]

/-- The sentinel at bit W is the lowest set bit for zero, and has no effect otherwise (R54). -/
theorem plainCtz_sentinel (hlt : n < m) (v : BitVec n) :
    plainCtz (v.setWidth m ||| 1#m <<< n) = plainCtz v := by
  obtain rfl | hne := eq_or_ne v 0#n
  · rw [plainCtz_zero]
    refine plainCtz_of_getLsbD ?_ fun j hj => ?_
    · rw [getLsbD_or_sentinel hlt, decide_eq_true rfl, Bool.or_true]
    · rw [getLsbD_or_sentinel hlt, BitVec.getLsbD_zero, Bool.false_or, decide_eq_false hj.ne]
  · have hlb : lb v < n := BitVec.lt_of_getLsbD (getLsbD_lb hne)
    rw [plainCtz_of_ne_zero hne]
    refine plainCtz_of_getLsbD ?_ fun j hj => ?_
    · rw [getLsbD_or_sentinel hlt, getLsbD_lb hne, Bool.true_or]
    · rw [getLsbD_or_sentinel hlt, getLsbD_of_lt_lb hj, Bool.false_or, decide_eq_false (hj.trans hlb).ne]

variable (x : BitVec m) (y : BitVec n)

/-- The leading zeros of two halves are those of the upper half, unless it is zero (R53). -/
theorem plainClz_append : plainClz (x ++ y) = if x ≠ 0 then plainClz x else plainClz y + m := by
  split
  case isTrue hne =>
    have hlt := hb_lt hne
    have hset : (x ++ y).getLsbD (n + hb x) = true := by
      simpa [BitVec.getLsbD_append] using getLsbD_hb hne
    have habove : ∀ j, n + hb x < j → (x ++ y).getLsbD j = false := fun j hj => by
      rw [BitVec.getLsbD_append, if_neg (by omega), getLsbD_of_hb_lt (by omega)]
    rw [plainClz_of_getLsbD hset habove, plainClz_of_ne_zero hne]
    omega
  case isFalse hx =>
    obtain rfl : x = 0#m := not_not.mp hx
    have hwiden : 0#m ++ y = y.setWidth (m + n) := BitVec.eq_of_toNat_eq (by
      rw [BitVec.toNat_setWidth_of_le (Nat.le_add_left n m)]
      simp)
    rw [hwiden, plainClz_setWidth (Nat.le_add_left n m), Nat.add_sub_cancel]

/-- The trailing zeros of two halves are those of the lower half, unless it is zero (R54). -/
theorem plainCtz_append : plainCtz (x ++ y) = if y ≠ 0 then plainCtz y else plainCtz x + n := by
  split
  case isTrue hne =>
    have hlt : lb y < n := BitVec.lt_of_getLsbD (getLsbD_lb hne)
    rw [plainCtz_of_ne_zero hne]
    refine plainCtz_of_getLsbD ?_ fun j hj => ?_
    · rw [BitVec.getLsbD_append, if_pos hlt, getLsbD_lb hne]
    · rw [BitVec.getLsbD_append, if_pos (hj.trans hlt), getLsbD_of_lt_lb hj]
  case isFalse hy =>
    obtain rfl : y = 0#n := not_not.mp hy
    obtain rfl | hne := eq_or_ne x 0#m
    · rw [BitVec.zero_append_zero, plainCtz_zero, plainCtz_zero]
    · rw [plainCtz_of_ne_zero hne]
      refine plainCtz_of_getLsbD ?_ fun j hj => ?_
      · simpa [BitVec.getLsbD_append] using getLsbD_lb hne
      · rw [BitVec.getLsbD_append]
        split
        case isTrue => exact BitVec.getLsbD_zero
        case isFalse => exact getLsbD_of_lt_lb (by omega)

end Widening

/-! ### The counts at each width -/

/-- The two halves make up the operand (R53, R54). -/
theorem hiHalf_append_loHalf (v : BitVec 64) : hiHalf v ++ loHalf v = v :=
  BitVec.extractLsb'_append_extractLsb' (w := 32) (len := 32)

/-- The leading-zero datapath gives the plain count at every width (R55). -/
theorem clzW_eq_plainClz (w : Width) (v : BitVec w.bits) : clzW w v = plainClz v := by
  cases w with
  | w8 => rw [clzW, clz32_eq_plainClz, plainClz_setWidth (by decide)]; exact Nat.add_sub_cancel _ _
  | w16 => rw [clzW, clz32_eq_plainClz, plainClz_setWidth (by decide)]; exact Nat.add_sub_cancel _ _
  | w32 => exact clz32_eq_plainClz v
  | w64 =>
    simp only [clzW, clz32_eq_plainClz]
    exact (plainClz_append _ _).symm.trans (congrArg plainClz (hiHalf_append_loHalf v))

/-- The trailing-zero datapath gives the plain count at every width (R55). -/
theorem ctzW_eq_plainCtz (w : Width) (v : BitVec w.bits) : ctzW w v = plainCtz v := by
  cases w with
  | w8 => exact (ctz32_eq_plainCtz _).trans (plainCtz_sentinel (by decide) v)
  | w16 => exact (ctz32_eq_plainCtz _).trans (plainCtz_sentinel (by decide) v)
  | w32 => exact ctz32_eq_plainCtz v
  | w64 =>
    simp only [ctzW, ctz32_eq_plainCtz]
    exact (plainCtz_append _ _).symm.trans (congrArg plainCtz (hiHalf_append_loHalf v))

/-- Settles O33: the kernels give the plain counts, and widening, sentinel and halves keep them. -/
theorem datapathGivesThePlainCounts : Obligations.DatapathGivesThePlainCounts :=
  fun w v => ⟨clzW_eq_plainClz w v, ctzW_eq_plainCtz w v⟩

/-! ### The four operations -/

section Operations

variable {w : Width} {st : State} {c : Nat}

/-- CLZ delivers the plain leading-zero count of the operand, and completes (R56). -/
theorem exec_clz (h : plainClz (operand w st.x) = c) :
    exec (.clz w) st = .next (st.deliver (BitVec.ofNat 64 c)) := by
  rw [← h, ← clzW_eq_plainClz, exec_eq_settle]
  rfl

/-- CLO delivers the plain leading-zero count of the operand's complement at width W, and completes (R57). -/
theorem exec_clo (h : plainClz (~~~(operand w st.x)) = c) :
    exec (.clo w) st = .next (st.deliver (BitVec.ofNat 64 c)) := by
  rw [← h, ← clzW_eq_plainClz, exec_eq_settle]
  rfl

/-- CTZ delivers the plain trailing-zero count of the operand, and completes (R58). -/
theorem exec_ctz (h : plainCtz (operand w st.x) = c) :
    exec (.ctz w) st = .next (st.deliver (BitVec.ofNat 64 c)) := by
  rw [← h, ← ctzW_eq_plainCtz, exec_eq_settle]
  rfl

/-- CTO delivers the plain trailing-zero count of the operand's complement at width W, and completes (R59). -/
theorem exec_cto (h : plainCtz (~~~(operand w st.x)) = c) :
    exec (.cto w) st = .next (st.deliver (BitVec.ofNat 64 c)) := by
  rw [← h, ← ctzW_eq_plainCtz, exec_eq_settle]
  rfl

/-- The complement of a clear top bit is a set one. -/
theorem msb_not_operand {x : Data} (h : (operand w x).msb = false) : (~~~(operand w x)).msb = true := by
  obtain ⟨hpos, -⟩ := bits_bounds w
  rw [BitVec.msb_not, h, decide_eq_true hpos]
  rfl

/-- Bit 0 of the operand is bit 0 of `x`. -/
theorem getLsbD_operand_zero {x : Data} : (operand w x).getLsbD 0 = x.getLsbD 0 := by
  obtain ⟨hpos, -⟩ := bits_bounds w
  rw [operand_getLsbD, decide_eq_true hpos, Bool.true_and]

/-- The complement of a clear bit 0 is a set one. -/
theorem getLsbD_not_operand_zero {x : Data} (h : x.getLsbD 0 = false) : (~~~(operand w x)).getLsbD 0 = true := by
  obtain ⟨hpos, -⟩ := bits_bounds w
  rw [BitVec.getLsbD_not, getLsbD_operand_zero, h, decide_eq_true hpos]
  rfl

end Operations

/-- Settles O7: what CLZ delivers, with the plain count of each corner case. -/
theorem clzResult : Obligations.ClzResult :=
  ⟨fun wsel => decode_append_opcCode (i := .clz (widthOfWsel wsel)) rfl, fun _ _ => exec_clz rfl,
    fun w _ h => exec_clz ((congrArg plainClz h).trans (plainClz_zero w.bits)),
    fun _ _ h => exec_clz (plainClz_of_msb h),
    fun _ h => exec_clz (w := .w32) ((congrArg plainClz h).trans (by decide))⟩

/-- Settles O8: what CLO delivers; the complement turns each corner case into one of CLZ. -/
theorem cloResult : Obligations.CloResult :=
  ⟨fun wsel => decode_append_opcCode (i := .clo (widthOfWsel wsel)) rfl, fun _ _ => exec_clo rfl,
    fun w _ h => exec_clo ((congrArg (fun v => plainClz (~~~v)) h).trans
      ((congrArg plainClz BitVec.not_allOnes).trans (plainClz_zero w.bits))),
    fun _ _ h => exec_clo (plainClz_of_msb (msb_not_operand h)),
    fun _ h => exec_clo (w := .w8) ((congrArg (fun v => plainClz (~~~v)) h).trans (by decide))⟩

/-- Settles O9: what CTZ delivers, with the plain count of each corner case. -/
theorem ctzResult : Obligations.CtzResult :=
  ⟨fun wsel => decode_append_opcCode (i := .ctz (widthOfWsel wsel)) rfl, fun _ _ => exec_ctz rfl,
    fun w _ h => exec_ctz ((congrArg plainCtz h).trans (plainCtz_zero w.bits)),
    fun _ _ h => exec_ctz (plainCtz_of_getLsbD_zero (getLsbD_operand_zero.trans h)),
    fun _ _ h => exec_ctz (plainCtz_of_toNat h),
    fun _ h => exec_ctz (w := .w32) ((congrArg plainCtz h).trans (by decide))⟩

/-- Settles O10: what CTO delivers; the complement turns each corner case into one of CTZ. -/
theorem ctoResult : Obligations.CtoResult :=
  ⟨fun wsel => decode_append_opcCode (i := .cto (widthOfWsel wsel)) rfl, fun _ _ => exec_cto rfl,
    fun w _ h => exec_cto ((congrArg (fun v => plainCtz (~~~v)) h).trans
      ((congrArg plainCtz BitVec.not_allOnes).trans (plainCtz_zero w.bits))),
    fun _ _ h => exec_cto (plainCtz_of_getLsbD_zero (getLsbD_not_operand_zero h)),
    fun _ h => exec_cto (w := .w16) ((congrArg (fun v => plainCtz (~~~v)) h).trans (by decide))⟩

end Sys2Proof.Machine
end

section
/-! PROOFS. The statements on 41_popcount.md: POPC (R60), and the adder tree of R61. -/

namespace Sys2Proof.Machine

/-! ### The number of set bits -/

/-- Zero has no set bit. -/
@[simp] theorem ones_zero (n : Nat) : ones 0#n = 0 := by
  rw [ones_eq_countP, List.countP_eq_zero]
  simp

/-- Every bit of the all-ones value counts. -/
@[simp] theorem ones_allOnes (n : Nat) : ones (BitVec.allOnes n) = n := by
  have hall : ∀ i ∈ List.range n, (BitVec.allOnes n).getLsbD i = true := by simp
  rw [ones_eq_countP, List.countP_eq_length.mpr hall, List.length_range]

/-- The set bits of the operand are the positions below W at which `x` has a one (R38). -/
theorem ones_operand (w : Width) (x : Data) :
    ones (operand w x) = (List.range w.bits).countP fun i => x.getLsbD i := by
  rw [ones_eq_countP]
  refine List.countP_congr fun i hi => ?_
  rw [operand_getLsbD, decide_eq_true (List.mem_range.mp hi), Bool.true_and]

/-! ### The adder tree -/

@[simp] theorem pairSums_nil : pairSums [] = [] := rfl

@[simp] theorem pairSums_singleton (a : Nat) : pairSums [a] = [a] := rfl

@[simp] theorem pairSums_cons_cons (a b : Nat) (rest : List Nat) :
    pairSums (a :: b :: rest) = (a + b) :: pairSums rest := rfl

/-- A level of the tree leaves half as many fields, and an odd last one as it is (R61). -/
theorem length_pairSums : (fields : List Nat) → (pairSums fields).length = (fields.length + 1) / 2
  | [] => rfl
  | [a] => by simp
  | a :: b :: rest => by
    rw [pairSums_cons_cons, List.length_cons, length_pairSums rest, List.length_cons, List.length_cons]
    omega

/-- A level of the tree keeps the sum of the fields (R61). -/
theorem sum_pairSums : (fields : List Nat) → (pairSums fields).sum = fields.sum
  | [] => rfl
  | [_] => rfl
  | a :: b :: rest => by
    rw [pairSums_cons_cons, List.sum_cons, sum_pairSums rest, List.sum_cons, List.sum_cons, Nat.add_assoc]

/-- `k` levels over `2^k` fields leave one field, which holds their sum (R61). -/
theorem adderLevels_of_length {k : Nat} {fields : List Nat} (h : fields.length = 2 ^ k) :
    adderLevels k fields = [fields.sum] := by
  induction k generalizing fields with
  | zero =>
    obtain ⟨a, rfl⟩ := List.length_eq_one_iff.mp h
    rfl
  | succ k ih =>
    have hhalf : (pairSums fields).length = 2 ^ k := by
      rw [length_pairSums, h, Nat.pow_succ]
      omega
    rw [adderLevels, ih hhalf, sum_pairSums]

/-- There is one field for each bit. -/
@[simp] theorem length_bitFields {n : Nat} (v : BitVec n) : (bitFields v).length = n := by
  rw [bitFields, List.length_map, List.length_range]

/-- The sum of the fields of the first `k` bits is R60's running sum. -/
theorem sum_map_range_getLsbD {n : Nat} (v : BitVec n) (k : Nat) :
    ((List.range k).map fun i => (v.getLsbD i).toNat).sum = onesBelow v k := by
  induction k with
  | zero => rfl
  | succ k ih => rw [List.sum_range_succ, ih, onesBelow_succ]

/-- The one-bit fields sum to the number of set bits. -/
theorem sum_bitFields {n : Nat} (v : BitVec n) : (bitFields v).sum = ones v := sum_map_range_getLsbD v n

/-- Settles O34: `2^log2W` one-bit fields, summed level by level. -/
theorem adderTreeCountsOnes : Obligations.AdderTreeCountsOnes := by
  intro w v
  have hlength : (bitFields v).length = 2 ^ w.log2 := by rw [length_bitFields, two_pow_log2]
  rw [popTree, adderLevels_of_length hlength, sum_bitFields]

/-! ### The operation -/

/-- POPC delivers the number of set bits of the operand, and completes (R60). -/
theorem exec_popc {w : Width} {st : State} {c : Nat} (h : ones (operand w st.x) = c) :
    exec (.popc w) st = .next (st.deliver (BitVec.ofNat 64 c)) := by
  rw [← h, exec_eq_settle]
  rfl

/-- Settles O11: what POPC delivers, with the number of set bits in each corner case. -/
theorem popcResult : Obligations.PopcResult :=
  ⟨fun wsel => decode_append_opcCode (i := .popc (widthOfWsel wsel)) rfl,
    fun w st => exec_popc (ones_operand w st.x),
    fun w _ h => exec_popc ((congrArg ones h).trans (ones_zero w.bits)),
    fun w _ h => exec_popc ((congrArg ones h).trans (ones_allOnes w.bits)),
    fun _ h => exec_popc (w := .w32) ((congrArg ones h).trans (ones_allOnes 32))⟩

end Sys2Proof.Machine
end

section
/-! PROOFS. The statements on 42_rotate.md: the two amounts of a count (R62), ROTL (R63), ROTR (R64) and the rotation
laws (R65). -/

namespace Sys2Proof.Machine

/-! ### The amounts of a count (R62) -/

/-- W divides `2^32`, so the low `log2W` bits of a count are the count modulo W. -/
theorem bits_dvd_two_pow_32 (w : Width) : w.bits ∣ 2 ^ 32 := by cases w <;> decide

/-- Reducing a count to 32 bits first does not change it modulo W. -/
theorem bmod_emod_bits (w : Width) (k : Int) : k.bmod (2 ^ 32) % (w.bits : Int) = k % (w.bits : Int) := by
  have hdvd : (w.bits : Int) ∣ ((2 ^ 32 : Nat) : Int) := Int.natCast_dvd_natCast.mpr (bits_dvd_two_pow_32 w)
  rw [← Int.emod_emod_of_dvd _ hdvd, Int.bmod_emod, Int.emod_emod_of_dvd _ hdvd]

/-- `c` is the amount of the modular negation of the count. -/
theorem rotateComplement_eq (w : Width) (s : Count) : rotateComplement w s = rotateAmount w (-s) := rfl

/-- `m` is the unsigned count modulo W. -/
theorem rotateAmount_eq_mod (w : Width) (s : Count) : rotateAmount w s = s.toNat % w.bits := by
  rw [rotateAmount, BitVec.extractLsb'_toNat, Nat.shiftRight_zero, two_pow_log2]

/-- `m` is the count masked with `W - 1`. -/
theorem rotateAmount_eq_and (w : Width) (s : Count) :
    rotateAmount w s = (s &&& BitVec.ofNat 32 (w.bits - 1)).toNat := by
  obtain ⟨-, hle⟩ := bits_bounds w
  have hmask : (w.bits - 1) % 2 ^ 32 = w.bits - 1 := Nat.mod_eq_of_lt (by omega)
  rw [rotateAmount_eq_mod, BitVec.toNat_and, BitVec.toNat_ofNat, hmask, ← two_pow_log2, Nat.and_two_pow_sub_one_eq_mod]

/-- `m` is the signed count modulo W, floored for a negative one. -/
theorem natCast_rotateAmount (w : Width) (s : Count) : (rotateAmount w s : Int) = s.toInt % (w.bits : Int) := by
  rw [rotateAmount_eq_mod, BitVec.toInt_eq_toNat_bmod, bmod_emod_bits, Int.natCast_emod]

/-- `c` is the negated signed count modulo W. -/
theorem natCast_rotateComplement (w : Width) (s : Count) :
    (rotateComplement w s : Int) = -s.toInt % (w.bits : Int) := by
  rw [rotateComplement_eq, natCast_rotateAmount, BitVec.toInt_neg, bmod_emod_bits]

/-- `c` is the width-complement of `m`. -/
theorem rotateComplement_eq_sub_mod (w : Width) (s : Count) :
    rotateComplement w s = (w.bits - rotateAmount w s) % w.bits := by
  have hlt := rotateAmount_lt w s
  zify [hlt.le]
  rw [natCast_rotateComplement, natCast_rotateAmount, Int.sub_emod_emod, Int.sub_emod_left]

/-- A count has amount 0 exactly where it is a multiple of W. -/
theorem rotateAmount_eq_zero_iff {w : Width} {s : Count} :
    rotateAmount w s = 0 ↔ s.toInt % (w.bits : Int) = 0 := by
  rw [← natCast_rotateAmount, Int.natCast_eq_zero]

/-- Where `m` is 0, `c` is 0 too: no shift is by W (R63). -/
theorem rotateComplement_eq_zero {w : Width} {s : Count} (h : rotateAmount w s = 0) : rotateComplement w s = 0 := by
  rw [rotateComplement_eq_sub_mod, h, Nat.sub_zero, Nat.mod_self]

/-- The two amounts together go once round the W bits, or not at all. -/
theorem rotateComplement_add_rotateAmount_mod (w : Width) (s : Count) :
    (rotateComplement w s + rotateAmount w s) % w.bits = 0 := by
  rw [rotateComplement_eq_sub_mod, Nat.mod_add_mod, Nat.sub_add_cancel (rotateAmount_lt w s).le, Nat.mod_self]

/-- Settles O35: the amount lemmas above. -/
theorem rotateAmounts : Obligations.RotateAmounts :=
  ⟨fun w s => ⟨natCast_rotateAmount w s, rotateAmount_lt w s, rotateComplement_eq_sub_mod w s,
      rotateAmount_eq_and w s, rotateAmount_eq_and w (-s)⟩,
    fun w => by
      have hm : rotateAmount w 0x80000000 = 0 := by cases w <;> rfl
      exact ⟨hm, rotateComplement_eq_zero hm⟩⟩

/-! ### The rotator -/

section Rotator

variable {w : Width} {i : Nat} (v : BitVec w.bits) (s : Count)

/-- Rotating right is rotating left by the modular negation of the count: the two amounts change places (R64). -/
theorem rotlW_neg : rotlW w v (-s) = rotrW w v s := by
  rw [rotlW, rotrW, rotateComplement_eq, rotateComplement_eq, BitVec.neg_neg, BitVec.or_comm]

/-- Rotating left is rotating right by the modular negation of the count (R65). -/
theorem rotrW_neg : rotrW w v (-s) = rotlW w v s := by
  rw [← rotlW_neg, BitVec.neg_neg]

/-- Bit `i` of a right rotation is bit `i + m` modulo W: one of the two partial shifts has it, and the other has a zero
there, or both are the operand (R64). -/
theorem getLsbD_rotrW (hi : i < w.bits) :
    (rotrW w v s).getLsbD i = v.getLsbD ((i + rotateAmount w s) % w.bits) := by
  have hm := rotateAmount_lt w s
  rw [rotrW, BitVec.getLsbD_or, BitVec.getLsbD_ushiftRight, BitVec.getLsbD_shiftLeft, rotateComplement_eq_sub_mod,
    Nat.add_comm i]
  generalize rotateAmount w s = m at hm ⊢
  obtain rfl | hpos := Nat.eq_zero_or_pos m
  · simp [hi, Nat.mod_eq_of_lt hi]
  rw [Nat.mod_eq_of_lt (show w.bits - m < w.bits by omega)]
  by_cases hwrap : m + i < w.bits
  · have hlow : i < w.bits - m := by omega
    simp [hlow, Nat.mod_eq_of_lt hwrap]
  · have hhigh : ¬ i < w.bits - m := by omega
    have hidx : (m + i) % w.bits = i - (w.bits - m) := by
      rw [Nat.mod_eq_sub_mod (by omega), Nat.mod_eq_of_lt (by omega)]
      omega
    rw [BitVec.getLsbD_of_ge v _ (by omega), hidx]
    simp [hi, hhigh]

/-- Bit `i` of a left rotation is bit `i + c` modulo W (R63). -/
theorem getLsbD_rotlW (hi : i < w.bits) :
    (rotlW w v s).getLsbD i = v.getLsbD ((i + rotateComplement w s) % w.bits) := by
  rw [← rotrW_neg, getLsbD_rotrW v (-s) hi, rotateComplement_eq]

/-- The round trip of R65: going `c` and then `m` places on ends at the bit it began with. -/
theorem rotlW_rotrW : rotlW w (rotrW w v s) s = v := by
  obtain ⟨hpos, -⟩ := bits_bounds w
  refine BitVec.eq_of_getLsbD_eq fun i hi => ?_
  rw [getLsbD_rotlW _ _ hi, getLsbD_rotrW _ _ (Nat.mod_lt _ hpos), Nat.mod_add_mod, Nat.add_assoc, Nat.add_mod,
    rotateComplement_add_rotateAmount_mod, Nat.add_zero, Nat.mod_mod, Nat.mod_eq_of_lt hi]

variable {v s}

/-- A multiple of W rotates nothing, and a value whose bits are all alike is its own rotation (R63). -/
theorem rotrW_eq_self (h : rotateAmount w s = 0 ∨ v = 0 ∨ v = BitVec.allOnes w.bits) : rotrW w v s = v := by
  obtain hm | rfl | rfl := h
  · rw [rotrW, hm, rotateComplement_eq_zero hm, BitVec.ushiftRight_zero, BitVec.shiftLeft_zero, BitVec.or_self]
  · simp [rotrW]
  · obtain ⟨hpos, -⟩ := bits_bounds w
    refine BitVec.eq_of_getLsbD_eq fun i hi => ?_
    rw [getLsbD_rotrW _ _ hi, BitVec.getLsbD_allOnes, BitVec.getLsbD_allOnes, decide_eq_true (Nat.mod_lt _ hpos),
      decide_eq_true hi]

/-- The fixed points of a right rotation are those of a left one (R63). -/
theorem rotlW_eq_self (h : rotateAmount w s = 0 ∨ v = 0 ∨ v = BitVec.allOnes w.bits) : rotlW w v s = v := by
  rw [← rotrW_neg]
  exact rotrW_eq_self (h.imp_left rotateComplement_eq_zero)

variable (v s)

/-- The bits of a right rotation are those of its operand, rotated as a list. -/
theorem bitFields_rotrW : bitFields (rotrW w v s) = (bitFields v).rotate (rotateAmount w s) := by
  refine List.ext_getElem (by simp) fun i hi _ => ?_
  rw [length_bitFields] at hi
  rw [List.getElem_rotate]
  simp [bitFields, getLsbD_rotrW v s hi]

/-- A right rotation permutes the bits, so it keeps the number of set ones (R65). -/
theorem ones_rotrW : ones (rotrW w v s) = ones v := by
  rw [← sum_bitFields, bitFields_rotrW, (List.rotate_perm _ _).sum_eq, sum_bitFields]

/-- A left rotation keeps the number of set bits (R65). -/
theorem ones_rotlW : ones (rotlW w v s) = ones v := by
  rw [← rotrW_neg, ones_rotrW]

end Rotator

/-! ### The two operations -/

section Operations

variable {w : Width} {st : State} {r : BitVec w.bits}

/-- Zero-extending a W-bit result and driving it as an operand gives it back (R38, R40). -/
theorem operand_setWidth (r : BitVec w.bits) : operand w (r.setWidth 64) = r := by
  obtain ⟨-, hle⟩ := bits_bounds w
  rw [operand, BitVec.setWidth_setWidth_of_le r hle, BitVec.setWidth_eq]

/-- The bits on `y` of a rotation by `a` places, with the places counted by any integer that is `a` modulo W. -/
theorem getLsbD_setWidth_rotation {x : Data} {a : Nat} {k : Int} (ha : (a : Int) = k % (w.bits : Int))
    (hr : ∀ i < w.bits, r.getLsbD i = (operand w x).getLsbD ((i + a) % w.bits)) (i : Nat) :
    (r.setWidth 64).getLsbD i = (decide (i < w.bits) && x.getLsbD (((i : Int) + k) % (w.bits : Int)).toNat) := by
  obtain ⟨hpos, hle⟩ := bits_bounds w
  have hidx : (((i : Int) + k) % (w.bits : Int)).toNat = (i + a) % w.bits := by
    rw [← Int.add_emod_emod, ← ha]
    rfl
  rw [BitVec.getLsbD_setWidth, hidx]
  by_cases hi : i < w.bits
  · have hport : i < 64 := by omega
    rw [hr i hi, operand_getLsbD, decide_eq_true hport, decide_eq_true hi, decide_eq_true (Nat.mod_lt _ hpos),
      Bool.true_and]
  · rw [BitVec.getLsbD_of_ge r i (Nat.le_of_not_lt hi), decide_eq_false hi, Bool.and_false, Bool.false_and]

/-- ROTL delivers the left rotation of the operand, zero-extended, and completes (R63). -/
theorem exec_rotl (h : rotlW w (operand w st.x) st.s = r) :
    exec (.rotl w) st = .next (st.deliver (r.setWidth 64)) := by
  rw [← h, exec_eq_settle]
  rfl

/-- ROTR delivers the right rotation of the operand, zero-extended, and completes (R64). -/
theorem exec_rotr (h : rotrW w (operand w st.x) st.s = r) :
    exec (.rotr w) st = .next (st.deliver (r.setWidth 64)) := by
  rw [← h, exec_eq_settle]
  rfl

end Operations

/-- Settles O16: what ROTL delivers, bit by bit and as the two partial shifts, and where it is the operand. -/
theorem rotlResult : Obligations.RotlResult :=
  ⟨fun wsel => decode_append_opcCode (i := .rotl (widthOfWsel wsel)) rfl,
    fun w st => ⟨_, exec_rotl rfl,
      getLsbD_setWidth_rotation (natCast_rotateComplement w st.s) fun _ => getLsbD_rotlW _ st.s⟩,
    fun w st => ⟨rotateAmount w st.s, rotateComplement w st.s, rotateAmount_lt w st.s, rotateComplement_lt w st.s,
      natCast_rotateAmount w st.s, rotateComplement_eq_sub_mod w st.s, exec_rotl rfl⟩,
    fun _ _ h => exec_rotl (rotlW_eq_self (h.imp_left rotateAmount_eq_zero_iff.mpr)),
    fun _ hx hs => exec_rotl (w := .w32) (r := 0x00000001#32) ((congrArg₂ (rotlW .w32) hx hs).trans rfl)⟩

/-- Settles O17: what ROTR delivers, bit by bit and as the two partial shifts, where it is the operand, and ROTL by the
negated count. -/
theorem rotrResult : Obligations.RotrResult :=
  ⟨fun wsel => decode_append_opcCode (i := .rotr (widthOfWsel wsel)) rfl,
    fun w st => ⟨_, exec_rotr rfl,
      getLsbD_setWidth_rotation (natCast_rotateAmount w st.s) fun _ => getLsbD_rotrW _ st.s⟩,
    fun w st => ⟨rotateAmount w st.s, rotateComplement w st.s, rotateAmount_lt w st.s, rotateComplement_lt w st.s,
      natCast_rotateAmount w st.s, rotateComplement_eq_sub_mod w st.s, exec_rotr rfl⟩,
    fun _ _ h => exec_rotr (rotrW_eq_self (h.imp_left rotateAmount_eq_zero_iff.mpr)),
    fun _ st => ⟨_, exec_rotr rfl, exec_rotl (st := { st with s := -st.s }) (rotlW_neg _ st.s)⟩,
    fun _ hx hs => exec_rotr (w := .w8) (r := 0x80#8) ((congrArg₂ (rotrW .w8) hx hs).trans rfl)⟩

/-! ### The rotation laws (R65) -/

/-- On its word, ROTL gives the left rotation of the operand (R63). -/
theorem eval_encode_rotl (w : Width) (x : Data) (s : Count) :
    eval (encode (.rotl w)) x s = .ok ((rotlW w (operand w x) s).setWidth 64) := eval_encode (.rotl w) x s

/-- On its word, ROTR gives the right rotation of the operand (R64). -/
theorem eval_encode_rotr (w : Width) (x : Data) (s : Count) :
    eval (encode (.rotr w)) x s = .ok ((rotrW w (operand w x) s).setWidth 64) := eval_encode (.rotr w) x s

/-- Left rotation by an amount of 0 gives the zero-extended operand (R63). -/
theorem eval_encode_rotl_of_rotateAmount {w : Width} {s : Count} (h : rotateAmount w s = 0) (x : Data) :
    eval (encode (.rotl w)) x s = .ok ((x.setWidth w.bits).setWidth 64) := by
  rw [eval_encode_rotl, rotlW_eq_self (.inl h), operand]

/-- Settles O36: each law of the evaluations is the law of the rotator. -/
theorem rotationLaws : Obligations.RotationLaws := by
  intro w x s
  have hW : rotateAmount w (BitVec.ofNat 32 w.bits) = 0 := by cases w <;> rfl
  have hzero : rotateAmount w 0 = 0 := by cases w <;> rfl
  refine ⟨⟨_, eval_encode_rotr w x s, ?_⟩, eval_encode_rotl_of_rotateAmount hW x,
    eval_encode_rotl_of_rotateAmount hzero x, ?_, _, eval_encode_rotl w x s, ?_⟩
  · rw [eval_encode_rotl, operand_setWidth, rotlW_rotrW, operand]
  · rw [eval_encode_rotl, eval_encode_rotr, rotrW_neg]
  · exact (congrArg ones (operand_setWidth _)).trans (ones_rotlW _ s)

end Sys2Proof.Machine
end

section
/-! PROOFS. The statements on 43_power_of_two.md: BWID (R66), HSB (R67), BFLOOR (R68), BCEIL (R69) and the laws of the
family (R70). -/

namespace Sys2Proof.Machine

open Sys2Proof.Safety

/-! ### The highest set bit as a logarithm -/

section HighestBit

variable {n k : Nat} {v : BitVec n}

/-- A value is zero as a word exactly where it is zero as a number. -/
theorem toNat_ne_zero_iff : v.toNat ≠ 0 ↔ v ≠ 0 := BitVec.toNat_ne_iff_ne (y := 0)

/-- The highest set bit of a nonzero value is the floor of its binary logarithm. -/
theorem hb_eq_log (h : v ≠ 0) : hb v = Nat.log 2 v.toNat := by
  have hlow : 2 ^ hb v ≤ v.toNat := Nat.ge_two_pow_of_testBit (getLsbD_hb h)
  have hhigh : v.toNat < 2 ^ (hb v + 1) := Nat.lt_pow_two_of_testBit _ fun _ hj => getLsbD_of_hb_lt hj
  exact (Nat.log_eq_of_pow_le_of_lt_pow hlow hhigh).symm

/-- A nonzero value is not below the power of two at its highest set bit. -/
theorem two_pow_hb_le (h : v ≠ 0) : 2 ^ hb v ≤ v.toNat := by
  rw [hb_eq_log h]
  exact Nat.pow_log_le_self 2 (toNat_ne_zero_iff.mpr h)

/-- A nonzero value is below twice the power of two at its highest set bit. -/
theorem lt_two_mul_two_pow_hb (h : v ≠ 0) : v.toNat < 2 * 2 ^ hb v := by
  rw [hb_eq_log h, ← Nat.pow_succ']
  exact Nat.lt_pow_succ_log_self (by decide) _

/-- A power of two is nonzero. -/
theorem ne_zero_of_toNat_eq_two_pow (h : v.toNat = 2 ^ k) : v ≠ 0 := by
  rintro rfl
  exact (Nat.two_pow_pos k).ne h

/-- The highest set bit of `2^k` is bit `k`. -/
theorem hb_of_toNat_eq_two_pow (h : v.toNat = 2 ^ k) : hb v = k := by
  rw [hb_eq_log (ne_zero_of_toNat_eq_two_pow h), h, Nat.log_pow (by decide)]

/-- The top bit, where it is set, is the highest set bit. -/
theorem hb_of_msb (h : v.msb = true) : hb v = n - 1 := by
  rw [BitVec.msb_eq_getLsbD_last] at h
  exact hb_eq_of_getLsbD h fun j hj => BitVec.getLsbD_of_ge v j (by omega)

/-- A value with its top bit set is nonzero. -/
theorem ne_zero_of_msb (h : v.msb = true) : v ≠ 0 := by
  rintro rfl
  exact Bool.false_ne_true (BitVec.msb_zero.symm.trans h)

/-- A zero value has as many leading zeros as it has bits (R66). -/
theorem sub_plainClz_zero (n : Nat) : n - plainClz 0#n = 0 := by
  rw [plainClz_zero, Nat.sub_self]

/-- The width less the leading zeros of a nonzero value is one more than its highest set bit (R66). -/
theorem sub_plainClz_of_ne_zero (h : v ≠ 0) : n - plainClz v = hb v + 1 := by
  have hlt := hb_lt h
  rw [plainClz_of_ne_zero h]
  omega

end HighestBit

/-! ### A single set bit -/

section SingleBit

variable {n : Nat} {v : BitVec n}

/-- Exactly one bit is set in a power of two, and in no other value (R67). -/
theorem ones_eq_one_iff : ones v = 1 ↔ v.toNat.isPowerOfTwo := by
  rw [ones_eq_countP]
  constructor
  · intro hone
    rw [List.countP_eq_length_filter] at hone
    obtain ⟨k, hk⟩ := List.length_eq_one_iff.mp hone
    have hbit : ∀ i, v.getLsbD i = true ↔ i = k := fun i => by
      rw [← List.mem_singleton (b := k), ← hk, List.mem_filter, List.mem_range, iff_and_self]
      exact BitVec.lt_of_getLsbD
    refine ⟨k, Nat.eq_of_testBit_eq fun i => ?_⟩
    rw [BitVec.testBit_toNat, Nat.testBit_two_pow, Bool.eq_iff_iff, hbit, decide_eq_true_iff, eq_comm]
  · rintro ⟨k, hk⟩
    have hbit : ∀ i, v.getLsbD i = (i == k) := fun i => by
      rw [← BitVec.testBit_toNat, hk, Nat.testBit_two_pow, Bool.eq_iff_iff, decide_eq_true_iff, beq_iff_eq, eq_comm]
    have hlt : k < n := BitVec.lt_of_getLsbD ((hbit k).trans (beq_self_eq_true k))
    simp only [hbit]
    exact List.count_eq_one_of_mem List.nodup_range (List.mem_range.mpr hlt)

/-- Decrementing a nonzero value does not wrap. -/
theorem toNat_sub_one_add_one (h : v ≠ 0) : (v - 1#n).toNat + 1 = v.toNat := by
  have hpos : 0 < v.toNat := BitVec.toNat_pos_of_ne_zero h
  have hone : (1#n).toNat = 1 := BitVec.toNat_one (Nat.zero_lt_of_lt (hb_lt h))
  have hle : 1#n ≤ v := BitVec.le_def.mpr (hone.trans_le hpos)
  rw [BitVec.toNat_sub_of_le hle, hone, Nat.sub_add_cancel hpos]

/-- The values that R67's test accepts are the powers of two. -/
theorem ne_zero_and_sub_one_iff : v ≠ 0 ∧ v &&& (v - 1#n) = 0 ↔ v.toNat.isPowerOfTwo := by
  rw [← Nat.ne_zero_and_sub_one_eq_zero_iff_isPowerOfTwo, toNat_ne_zero_iff]
  refine and_congr_right fun h => ?_
  have hdec := toNat_sub_one_add_one h
  rw [← BitVec.toNat_inj, BitVec.toNat_and, ← hdec, Nat.add_sub_cancel]
  rfl

/-- HSB's test says what R67 writes. -/
theorem hsbW_iff (w : Width) (v : BitVec w.bits) : hsbW w v = true ↔ v ≠ 0 ∧ v &&& (v - 1#w.bits) = 0 := by
  rw [hsbW, Bool.and_eq_true, decide_eq_true_iff, decide_eq_true_iff]
  rfl

end SingleBit

/-! ### Rounding down -/

section RoundDown

variable {w : Width} {v : BitVec w.bits}

/-- BWID counts the bits from the highest set one down (R66). -/
theorem bwidW_eq (w : Width) (v : BitVec w.bits) : bwidW w v = w.bits - plainClz v := by
  rw [bwidW, clzW_eq_plainClz]

/-- BFLOOR keeps the highest set bit of a nonzero operand alone (R68). -/
theorem toNat_bfloorW (h : v ≠ 0) : (bfloorW w v).toNat = 2 ^ hb v := by
  rw [bfloorW, if_neg h, clzW_eq_plainClz, sub_plainClz_of_ne_zero h, Nat.add_sub_cancel, Nat.one_shiftLeft]
  exact Nat.mod_eq_of_lt (Nat.pow_lt_pow_right (by decide) (hb_lt h))

/-- BFLOOR is within a factor of two below a nonzero operand (R70). -/
theorem bfloorW_bracket (h : v ≠ 0) : (bfloorW w v).toNat ≤ v.toNat ∧ v.toNat < 2 * (bfloorW w v).toNat := by
  rw [toNat_bfloorW h]
  exact ⟨two_pow_hb_le h, lt_two_mul_two_pow_hb h⟩

end RoundDown

/-! ### Rounding up -/

/-- Half the least power of two not below a positive number is below it (R70). -/
theorem two_pow_clog_div_two_lt {m : Nat} (h : 0 < m) : 2 ^ Nat.clog 2 m / 2 < m := by
  rw [Nat.div_lt_iff_lt_mul (by decide)]
  cases hc : Nat.clog 2 m with
  | zero => omega
  | succ d =>
    have hlt : 2 ^ d < m := Nat.pow_lt_of_lt_clog (hc ▸ Nat.lt_succ_self d)
    omega

section RoundUp

variable {n : Nat} {u v : BitVec n}

/-- One more than a full smear is the power of two next above the value (R69). -/
theorem SmearedBy.toNat_add_one (h : SmearedBy n v u) : u.toNat + 1 = 2 ^ Nat.clog 2 (v.toNat + 1) := by
  obtain rfl | hne := eq_or_ne v 0
  · obtain rfl : u = 0 := BitVec.eq_of_getLsbD_eq fun i _ => by simpa using h i
    rfl
  · have hlog : Nat.clog 2 (v.toNat + 1) = Nat.log 2 v.toNat + 1 := eq_of_forall_ge_iff fun c => by
      rw [Nat.clog_le_iff_le_pow (by decide), Nat.succ_le_iff, Nat.succ_le_iff,
        Nat.log_lt_iff_lt_pow (by decide) (toNat_ne_zero_iff.mpr hne)]
    rw [h.toNat_eq hne, hb_eq_log hne, hlog, Nat.sub_add_cancel Nat.one_le_two_pow]

/-- Decrement, smear, increment gives the least power of two not below a nonzero value, at the width of the datapath
(R69). -/
theorem SmearedBy.toNat_increment (h : SmearedBy n (v - 1#n) u) (hv : v ≠ 0) :
    (u + 1#n).toNat = 2 ^ Nat.clog 2 v.toNat % 2 ^ n := by
  rw [BitVec.toNat_add, BitVec.toNat_ofNat, Nat.add_mod_mod, h.toNat_add_one, toNat_sub_one_add_one hv]

/-- The 32-bit datapath rounds up, and wraps above `2^31` (R69). -/
theorem toNat_roundUp32 {v : BitVec 32} (h : v ≠ 0) : (roundUp32 v).toNat = 2 ^ Nat.clog 2 v.toNat % 2 ^ 32 :=
  (smearedBy_smear32 _).toNat_increment h

/-- The 64-bit datapath rounds up, and wraps above `2^63` (R69). -/
theorem toNat_roundUp64 {v : BitVec 64} (h : v ≠ 0) : (roundUp64 v).toNat = 2 ^ Nat.clog 2 v.toNat % 2 ^ 64 :=
  (smearedBy_smear64 _).toNat_increment h

/-- Rounding up at 32 bits and truncating is rounding up at the narrow width (R69). -/
theorem toNat_setWidth_roundUp32 (hle : n ≤ 32) (hv : v ≠ 0) :
    ((roundUp32 (v.setWidth 32)).setWidth n).toNat = 2 ^ Nat.clog 2 v.toNat % 2 ^ n := by
  have hwide : (v.setWidth 32).toNat = v.toNat := BitVec.toNat_setWidth_of_le hle
  have hne : v.setWidth 32 ≠ 0 := by rwa [← toNat_ne_zero_iff, hwide, toNat_ne_zero_iff]
  rw [BitVec.toNat_setWidth, toNat_roundUp32 hne, hwide, Nat.mod_mod_of_dvd _ (Nat.pow_dvd_pow 2 hle)]

end RoundUp

section RoundUpAtWidth

variable {w : Width} {v : BitVec w.bits}

/-- At each width the datapath rounds up, and wraps above `2^(W-1)` (R69). -/
theorem toNat_bceilW_mod (h : v ≠ 0) : (bceilW w v).toNat = 2 ^ Nat.clog 2 v.toNat % 2 ^ w.bits := by
  cases w with
  | w8 => exact toNat_setWidth_roundUp32 (by decide) h
  | w16 => exact toNat_setWidth_roundUp32 (by decide) h
  | w32 => exact toNat_roundUp32 h
  | w64 => exact toNat_roundUp64 h

/-- A legal operand is rounded up to a power of two below `2^W` (R69). -/
theorem clog_lt_bits (h : v.toNat ≤ 2 ^ (w.bits - 1)) : Nat.clog 2 v.toNat < w.bits := by
  obtain ⟨hpos, -⟩ := bits_bounds w
  have hle : Nat.clog 2 v.toNat ≤ w.bits - 1 := (Nat.clog_le_iff_le_pow (by decide)).mpr h
  omega

/-- BCEIL gives the least power of two not below a legal nonzero operand (R69). -/
theorem toNat_bceilW (hne : v ≠ 0) (hlegal : v.toNat ≤ 2 ^ (w.bits - 1)) :
    (bceilW w v).toNat = 2 ^ Nat.clog 2 v.toNat := by
  rw [toNat_bceilW_mod hne, Nat.mod_eq_of_lt (Nat.pow_lt_pow_right (by decide) (clog_lt_bits hlegal))]

/-- BCEIL is within a factor of two above a legal nonzero operand (R70). -/
theorem bceilW_bracket (hne : v ≠ 0) (hlegal : v.toNat ≤ 2 ^ (w.bits - 1)) :
    v.toNat ≤ (bceilW w v).toNat ∧ (bceilW w v).toNat / 2 < v.toNat := by
  rw [toNat_bceilW hne hlegal]
  exact ⟨Nat.le_pow_clog (by decide) _, two_pow_clog_div_two_lt (BitVec.toNat_pos_of_ne_zero hne)⟩

/-- A power of two is a legal operand. -/
theorem toNat_le_of_eq_two_pow {k : Nat} (h : v.toNat = 2 ^ k) : v.toNat ≤ 2 ^ (w.bits - 1) := by
  have hk : k < w.bits := (Nat.pow_lt_pow_iff_right (by decide)).mp (h.symm.trans_lt v.isLt)
  rw [h]
  exact Nat.pow_le_pow_right (by decide) (by omega)

/-- A power of two rounds up to itself (R69). -/
theorem bceilW_eq_self {k : Nat} (h : v.toNat = 2 ^ k) : bceilW w v = v := by
  refine BitVec.eq_of_toNat_eq ?_
  rw [toNat_bceilW (ne_zero_of_toNat_eq_two_pow h) (toNat_le_of_eq_two_pow h), h, Nat.clog_pow _ _ (by decide)]

/-- BCEIL of zero is zero: the decrement and the increment both wrap (R69). -/
theorem bceilW_zero (w : Width) : bceilW w 0 = 0 := by cases w <;> rfl

end RoundUpAtWidth

/-! ### The four operations -/

section Operations

variable {i : Instr} {w : Width} {st : State} {x y : Data}

/-- An operation delivers its result, and completes (R12). -/
theorem exec_of_evalInstr (h : evalInstr i st.x st.s = .ok y) : exec i st = .next (st.deliver y) :=
  exec_eq_next_iff.mpr ⟨y, h, rfl⟩

/-- Zero-extending a W-bit result keeps its number (R40). -/
theorem toNat_setWidth_port (r : BitVec w.bits) : (r.setWidth 64).toNat = r.toNat := by
  obtain ⟨-, hle⟩ := bits_bounds w
  exact BitVec.toNat_setWidth_of_le hle

/-- On `y` a zero-extended result is its number (R40). -/
theorem setWidth_port_eq_ofNat {r : BitVec w.bits} {m : Nat} (h : r.toNat = m) :
    r.setWidth 64 = BitVec.ofNat 64 m := by
  rw [← h, BitVec.ofNat_toNat]

/-- A zero result shows as zero on `y` (R40). -/
theorem setWidth_port_of_zero {r : BitVec w.bits} (h : r = 0) : r.setWidth 64 = 0 := by
  rw [h]
  exact BitVec.setWidth_zero 64 w.bits

/-- A count of at most W fits on `y` (R40). -/
theorem toNat_ofNat_count {c : Nat} (h : c ≤ w.bits) : (BitVec.ofNat 64 c).toNat = c := by
  obtain ⟨-, hle⟩ := bits_bounds w
  rw [BitVec.toNat_ofNat, Nat.mod_eq_of_lt (by omega)]

/-- BWID's result is the width less the plain leading-zero count (R66). -/
theorem evalBwid_eq {c : Nat} (h : w.bits - plainClz (operand w x) = c) : evalBwid w x = .ok (BitVec.ofNat 64 c) := by
  rw [evalBwid, bwidW_eq, h]
  rfl

/-- HSB's result is 1 or 0 by whatever its test decides (R67). -/
theorem evalHsb_of_iff {p : Prop} [Decidable p] (h : hsbW w (operand w x) = true ↔ p) :
    evalHsb w x = .ok (if p then 1 else 0) := by
  rw [← if_congr h rfl rfl]
  rfl

/-- HSB's result is 1 or 0 by the number of set bits (R67). -/
theorem evalHsb_of_ones {c : Nat} (h : ones (operand w x) = c) : evalHsb w x = .ok (if c = 1 then 1 else 0) := by
  refine evalHsb_of_iff ?_
  rw [← h, ones_eq_one_iff, ← ne_zero_and_sub_one_iff, hsbW_iff]

/-- HSB's result is 1 exactly where one bit is set (R67). -/
theorem evalHsb_eq_one_iff : evalHsb w x = .ok 1 ↔ ones (operand w x) = 1 := by
  rw [evalHsb_of_ones rfl]
  split <;> simp [*]

/-- POPC's result is 1 exactly where one bit is set (R60). -/
theorem evalPopc_eq_one_iff : evalPopc w x = .ok 1 ↔ ones (operand w x) = 1 := by
  rw [evalPopc, countResult, EvalResult.ok.injEq, ← BitVec.toNat_inj,
    toNat_ofNat_count (c := ones (operand w x)) (onesBelow_le _ _)]
  rfl

/-- BFLOOR's result for zero is zero (R68). -/
theorem evalBfloor_zero (h : operand w x = 0) : evalBfloor w x = .ok 0 :=
  congrArg EvalResult.ok (setWidth_port_of_zero (if_pos h))

/-- BFLOOR's result for a nonzero operand is the power of two at its highest set bit (R68). -/
theorem evalBfloor_of_hb {k : Nat} (hne : operand w x ≠ 0) (hk : hb (operand w x) = k) :
    evalBfloor w x = .ok (BitVec.ofNat 64 (2 ^ k)) :=
  congrArg EvalResult.ok (setWidth_port_eq_ofNat (hk ▸ toNat_bfloorW hne))

/-- BCEIL above its range is a contract violation (R69). -/
theorem evalBceil_of_lt (h : 2 ^ (w.bits - 1) < (operand w x).toNat) : evalBceil w x = .fault .bceilRange :=
  if_pos (decide_eq_true h)

/-- BCEIL's result for a legal operand is decrement, smear, increment (R69). -/
theorem evalBceil_of_le (hlegal : (operand w x).toNat ≤ 2 ^ (w.bits - 1))
    (hy : (bceilW w (operand w x)).setWidth 64 = y) : evalBceil w x = .ok y := by
  rw [evalBceil, bceilOutOfRange, decide_eq_false (Nat.not_lt.mpr hlegal), ← hy]
  rfl

/-- BCEIL's result for zero is zero (R69). -/
theorem evalBceil_zero (h : operand w x = 0) : evalBceil w x = .ok 0 :=
  evalBceil_of_le (h ▸ Nat.zero_le _) (setWidth_port_of_zero (h ▸ bceilW_zero w))

/-- The two datapaths of R69: 64 bits for W = 64, else 32 bits truncated to W. -/
theorem setWidth_bceilW (w : Width) (x : Data) :
    (bceilW w (operand w x)).setWidth 64 =
      if w = .w64 then smear64 (x - 1#64) + 1#64
      else ((smear32 ((operand w x).setWidth 32 - 1#32) + 1#32).setWidth w.bits).setWidth 64 := by
  cases w with
  | w8 => rfl
  | w16 => rfl
  | w32 =>
    have hdatapath : (roundUp32 ((operand .w32 x).setWidth 32)).setWidth 32 = roundUp32 (operand .w32 x) :=
      (BitVec.setWidth_eq _).trans (congrArg roundUp32 (BitVec.setWidth_eq _))
    exact congrArg (BitVec.setWidth 64) hdatapath.symm
  | w64 => exact (BitVec.setWidth_eq _).trans (congrArg roundUp64 (BitVec.setWidth_eq x))

end Operations

/-! ### The statements -/

/-- Settles O12: what BWID delivers, with the highest set bit in each corner case. -/
theorem bwidResult : Obligations.BwidResult :=
  ⟨fun wsel => decode_append_opcCode (i := .bwid (widthOfWsel wsel)) rfl,
    fun _ _ => exec_of_evalInstr (evalBwid_eq rfl),
    fun w _ h => exec_of_evalInstr (evalBwid_eq ((congrArg (w.bits - plainClz ·) h).trans (sub_plainClz_zero _))),
    fun _ _ h => exec_of_evalInstr (evalBwid_eq (sub_plainClz_of_ne_zero h)),
    fun w _ h => exec_of_evalInstr (evalBwid_eq ((congrArg (w.bits - plainClz ·) h).trans (by cases w <;> rfl))),
    fun w _ h => exec_of_evalInstr (evalBwid_eq (congrArg (w.bits - ·) (plainClz_of_msb h))),
    fun _ h => exec_of_evalInstr (evalBwid_eq (w := .w32) ((congrArg (32 - plainClz ·) h).trans (by decide)))⟩

/-- Settles O13: what HSB delivers, by R67's test and by the number of set bits, with that number in each corner
case. -/
theorem hsbResult : Obligations.HsbResult :=
  ⟨fun wsel => decode_append_opcCode (i := .hsb (widthOfWsel wsel)) rfl,
    fun w _ => exec_of_evalInstr (evalHsb_of_iff (hsbW_iff w _)),
    fun _ _ => exec_of_evalInstr (evalHsb_of_ones rfl),
    fun w _ h => exec_of_evalInstr (evalHsb_of_ones ((congrArg ones h).trans (ones_zero w.bits))),
    fun _ _ h => exec_of_evalInstr (evalHsb_of_ones (ones_eq_one_iff.mpr ⟨_, h⟩)),
    fun w _ h => exec_of_evalInstr ((evalHsb_of_ones ((congrArg ones h).trans (ones_allOnes w.bits))).trans
      (by cases w <;> rfl)),
    fun _ h => exec_of_evalInstr (evalHsb_of_ones (w := .w32) (c := 1) ((congrArg ones h).trans (by decide)))⟩

/-- Settles O14: what BFLOOR delivers, with the highest set bit in each corner case. -/
theorem bfloorResult : Obligations.BfloorResult :=
  ⟨fun wsel => decode_append_opcCode (i := .bfloor (widthOfWsel wsel)) rfl,
    fun _ _ h => exec_of_evalInstr (evalBfloor_zero h),
    fun _ _ h => exec_of_evalInstr (evalBfloor_of_hb h (Nat.sub_eq_of_eq_add (sub_plainClz_of_ne_zero h)).symm),
    fun _ _ h => ⟨_, hb_lt h, two_pow_hb_le h, lt_two_mul_two_pow_hb h,
      exec_of_evalInstr (evalBfloor_of_hb h rfl)⟩,
    fun _ _ _ _ h =>
      exec_of_evalInstr (evalBfloor_of_hb (ne_zero_of_toNat_eq_two_pow h) (hb_of_toNat_eq_two_pow h)),
    fun w st h => by
      obtain ⟨hpos, -⟩ := bits_bounds w
      have hmsb : (operand w st.x).msb = true := (congrArg BitVec.msb h).trans (BitVec.msb_allOnes hpos)
      exact exec_of_evalInstr (evalBfloor_of_hb (ne_zero_of_msb hmsb) (hb_of_msb hmsb)),
    fun _ h => exec_of_evalInstr (evalBfloor_of_hb (w := .w32) (k := 4) (h.trans_ne (by decide : 17#32 ≠ 0#32))
      ((congrArg hb h).trans (by decide)))⟩

/-- Settles O15: the fault above the range, and what BCEIL delivers within it. -/
theorem bceilResult : Obligations.BceilResult :=
  ⟨fun wsel => decode_append_opcCode (i := .bceil (widthOfWsel wsel)) rfl,
    fun _ _ h => (exec_eq_settle _ _).trans (congrArg _ (evalBceil_of_lt h)),
    fun _ _ h => exec_of_evalInstr (evalBceil_zero h),
    fun _ _ hpos hlegal => ⟨_, clog_lt_bits hlegal, Nat.le_pow_clog (by decide) _,
      fun _ hj => Nat.pow_le_pow_right (by decide) ((Nat.clog_le_iff_le_pow (by decide)).mpr hj),
      exec_of_evalInstr (evalBceil_of_le hlegal
        (setWidth_port_eq_ofNat (toNat_bceilW (toNat_ne_zero_iff.mp (Nat.ne_of_gt hpos)) hlegal)))⟩,
    fun _ _ _ _ h => exec_of_evalInstr (evalBceil_of_le (toNat_le_of_eq_two_pow h)
      (setWidth_port_eq_ofNat ((congrArg BitVec.toNat (bceilW_eq_self h)).trans h))),
    fun w st hlegal => exec_of_evalInstr (evalBceil_of_le hlegal (setWidth_bceilW w st.x)),
    fun _ h => exec_of_evalInstr (evalBceil_of_le (w := .w32) ((congrArg BitVec.toNat h).trans_le (by decide))
      ((congrArg (fun v => (bceilW .w32 v).setWidth 64) h).trans rfl))⟩

/-! ### The laws of the family (R70) -/

/-- Settles O37: the laws of the counts, the test and the two roundings, read off the results of the evaluations. -/
theorem powerOfTwoLaws : Obligations.PowerOfTwoLaws := by
  intro w x s
  simp only [eval_encode]
  refine ⟨?clz, evalHsb_eq_one_iff.trans evalPopc_eq_one_iff.symm, ?bfloor, ?bceil, ?fixed⟩
  case clz =>
    have hle : plainClz (operand w x) ≤ w.bits := clzW_eq_plainClz w _ ▸ clzW_le w _
    refine ⟨_, _, rfl, evalBwid_eq rfl, ?_⟩
    rw [toNat_ofNat_count (Nat.sub_le w.bits _), clzW_eq_plainClz, toNat_ofNat_count hle]
    omega
  case bfloor =>
    refine ⟨_, rfl, fun h => setWidth_port_of_zero (if_pos h), fun h => ?_⟩
    rw [toNat_setWidth_port]
    exact bfloorW_bracket h
  case bceil =>
    intro hlegal
    refine ⟨_, evalBceil_of_le hlegal rfl, fun h => setWidth_port_of_zero (h ▸ bceilW_zero w), fun h => ?_⟩
    rw [toNat_setWidth_port]
    exact bceilW_bracket h hlegal
  case fixed =>
    intro h
    obtain ⟨k, hk⟩ := ones_eq_one_iff.mp (evalHsb_eq_one_iff.mp h)
    exact evalBceil_of_le (toNat_le_of_eq_two_pow hk) (congrArg _ (bceilW_eq_self hk))

end Sys2Proof.Machine
end

section
/-! PROOFS. The statements on 60_exceptions.md: the one exception and its two causes (R71, R72), the pins that show it
(R73, R74), the operations that never raise it (R75), and the refusal of other widths (R76). -/

namespace Sys2Proof.Machine

/-! ### The violations of an evaluation -/

section Violations

variable {i : Instr} {w : Width} {opw : Opw} {x : Data} {s : Count} {c : Violation}

/-- BCEIL violates the contract exactly above its range, and by no other cause (R69, R72). -/
theorem evalBceil_eq_fault_iff :
    evalBceil w x = .fault c ↔ c = .bceilRange ∧ 2 ^ (w.bits - 1) < (operand w x).toNat := by
  obtain hgt | hle := Nat.lt_or_ge (2 ^ (w.bits - 1)) (operand w x).toNat
  · simp [evalBceil_of_lt hgt, hgt, eq_comm]
  · simp [evalBceil_of_le hle rfl, Nat.not_lt.mpr hle]

/-- Every operation but BCEIL has a result, whatever is on the ports (R75). -/
theorem exists_evalInstr_eq_ok (h : ∀ w, i ≠ .bceil w) (x : Data) (s : Count) : ∃ y, evalInstr i x s = .ok y := by
  cases i with
  | bceil w => exact absurd rfl (h w)
  | clz w | clo w | ctz w | cto w | popc w | bwid w | hsb w | bfloor w | rotl w | rotr w => exact ⟨_, rfl⟩

/-- An operation violates the contract only as BCEIL above its range (R72, R75). -/
theorem evalInstr_eq_fault_iff :
    evalInstr i x s = .fault c ↔
      c = .bceilRange ∧ ∃ w, i = .bceil w ∧ 2 ^ (w.bits - 1) < (operand w x).toNat := by
  by_cases hi : ∃ w, i = .bceil w
  · obtain ⟨w, rfl⟩ := hi
    simp [evalInstr, evalBceil_eq_fault_iff]
  · have hne := not_exists.mp hi
    obtain ⟨y, hy⟩ := exists_evalInstr_eq_ok hne x s
    simp [hy, hne]

/-- An evaluation raises RESERVED_OP exactly on the reserved codes (R37, R72). -/
theorem eval_eq_fault_reservedOp_iff : eval opw x s = .fault .reservedOp ↔ 11 ≤ (opcOf opw).toNat := by
  obtain ⟨hlt, i, hi, -⟩ | ⟨hres, -⟩ := decode_cases opw
  · simp [eval_of_decode hi, evalInstr_eq_fault_iff, hlt]
  · simp [eval_of_reserved hres, hres]

/-- An evaluation raises BCEIL_RANGE exactly on the word of BCEIL with an operand above its range (R69, R72). -/
theorem eval_eq_fault_bceilRange_iff :
    eval opw x s = .fault .bceilRange ↔
      ∃ w, opw = encode (.bceil w) ∧ 2 ^ (w.bits - 1) < (operand w x).toNat := by
  have hword : ∀ w, opw = encode (.bceil w) ↔ decode opw = .ok (.bceil w) :=
    fun w => (decodeAndEncodeAgree opw (.bceil w)).symm
  obtain ⟨-, i, hi, -⟩ | ⟨hres, he⟩ := decode_cases opw
  · simp [eval_of_decode hi, evalInstr_eq_fault_iff, hword, hi]
  · simp [eval_of_reserved hres, hword, he]

end Violations

/-! ### The outputs `cv` and `cvc` -/

/-- The causes have different codes (R72). -/
theorem Violation.code_inj {c d : Violation} : c.code = d.code ↔ c = d := by
  cases c <;> cases d <;> decide

/-- No cause has code 0, which stands for no violation, or code 3 (R72). -/
theorem Violation.code_ne (c : Violation) : c.code ≠ 0 ∧ c.code ≠ 3 := by
  cases c <;> decide

/-- `cvc` holds the code of a cause exactly on a violation by that cause (R72). -/
theorem EvalResult.cvc_eq_code_iff {r : EvalResult} {c : Violation} : r.cvc = c.code ↔ r = .fault c := by
  obtain ⟨hne, -⟩ := c.code_ne
  cases r with
  | ok y => exact iff_of_false hne.symm (by simp)
  | fault d => simp [EvalResult.cvc, Violation.code_inj]

/-- Cause code 3 is never driven (R72). -/
theorem EvalResult.cvc_ne_three (r : EvalResult) : r.cvc ≠ 3 := by
  cases r with
  | ok y => simp [EvalResult.cvc]
  | fault c => exact c.code_ne.right

/-- `cv` is 1 exactly when `cvc` holds a cause (R16, R72). -/
theorem EvalResult.cv_iff (r : EvalResult) : r.cv = true ↔ r.cvc ≠ 0 := by
  cases r with
  | ok y => simp [EvalResult.cv, EvalResult.cvc]
  | fault c => exact iff_of_true rfl c.code_ne.left

/-- A violation shows on `cv`, and its cause on `cvc` (R73). -/
theorem pins_of_eval_fault {opw : Opw} {x : Data} {s : Count} {c : Violation} (h : eval opw x s = .fault c) :
    (pins opw x s).cv = true ∧ (pins opw x s).cvc = c.code := by
  simp only [pins, h, EvalResult.cv, EvalResult.cvc, and_self]

/-! ### The widths -/

/-- The number of bits of a width builds that width (R76). -/
theorem ofNat?_bits (w : Width) : Width.ofNat? w.bits = some w := by cases w <;> rfl

/-- A width is built from its number of bits only (R76). -/
theorem eq_bits_of_ofNat? {n : Nat} {w : Width} (h : Width.ofNat? n = some w) : n = w.bits := by
  unfold Width.ofNat? at h
  split at h
  case h_5 => cases h
  all_goals
    cases h
    rfl

/-! ### The statements -/

/-- Settles O21: an operation other than BCEIL has a result, and delivers it. -/
theorem operationsOtherThanBceilAreTotal : Obligations.OperationsOtherThanBceilAreTotal := by
  intro i st h
  obtain ⟨y, hy⟩ := exists_evalInstr_eq_ok h st.x st.s
  exact ⟨st.deliver y, exec_of_evalInstr hy⟩

/-- Settles O22: an operation settles its own result, whose only violation is BCEIL above its range. -/
theorem onlyBceilAboveItsRangeFaults : Obligations.OnlyBceilAboveItsRangeFaults := by
  refine ⟨fun i st f => ?_, fun i st q => ?_⟩
  · rw [exec_eq_settle, settle_eq_fault_iff]
    constructor
    · rintro ⟨c, hc, rfl⟩
      obtain ⟨rfl, hrange⟩ := evalInstr_eq_fault_iff.mp hc
      exact ⟨rfl, hrange⟩
    · rintro ⟨rfl, hrange⟩
      exact ⟨.bceilRange, evalInstr_eq_fault_iff.mpr ⟨rfl, hrange⟩, rfl⟩
  · rw [exec_eq_settle]
    exact settle_ne_refused q

/-- Settles O24: a code on `cvc` is the violation it stands for, and each violation has its own condition. -/
theorem causeCodes : Obligations.CauseCodes := fun opw x s =>
  ⟨(EvalResult.cvc_eq_code_iff (c := .reservedOp)).trans eval_eq_fault_reservedOp_iff,
    (EvalResult.cvc_eq_code_iff (c := .bceilRange)).trans eval_eq_fault_bceilRange_iff,
    (eval opw x s).cvc_ne_three, (eval opw x s).cv_iff⟩

/-- Settles O6: `Width.ofNat?` inverts `Width.bits`, both ways. -/
theorem onlyFourWidthsAreBuilt : Obligations.OnlyFourWidthsAreBuilt := by
  intro n w
  constructor
  · exact eq_bits_of_ofNat?
  · rintro rfl
    exact ofNat?_bits w

/-- Settles O25: the pins on a violation, whose cause fixes the code, and on a legal evaluation. -/
theorem pinsShowTheEvaluation : Obligations.PinsShowTheEvaluation := by
  refine fun opw x s => ⟨fun c hc => ?_, fun y => pins_of_eval_ok⟩
  obtain ⟨hcv, hcvc⟩ := pins_of_eval_fault hc
  refine ⟨hcv, ?_⟩
  cases c with
  | reservedOp => exact hcvc
  | bceilRange => exact hcvc

end Sys2Proof.Machine
end

section
/-! PROOFS. The statements on 70_reset_and_hazards.md: samples after the latency (R91, R95), one step of the host protocol
(R91, R93, R96), and the host program run to its end (R96). -/

namespace Sys2Proof.Machine

/-! ### The values of an issue -/

section Presenting

variable {ys hs : List Data} {a : Source} {v : Data}

/-- Presenting an issue resolves its three values, and needs all of them (R96). -/
theorem presented_eq_bind (ys hs : List Data) (k : Issue) :
    presented ys hs k = (resolve ys hs k.opw).bind fun o => (resolve ys hs k.x).bind fun x =>
      (resolve ys hs k.s).map fun s => (o.setWidth 6, x, s.setWidth 32) := by
  unfold presented
  cases resolve ys hs k.opw with
  | none => rfl
  | some o =>
    cases resolve ys hs k.x with
    | none => rfl
    | some x =>
      cases resolve ys hs k.s with
      | none => rfl
      | some s => rfl

/-- A value that exists is driven on whichever port names it (R96). -/
theorem presented_of_resolve (h : resolve ys hs a = some v) (b c d : Data) :
    presented ys hs ⟨a, .lit c, .lit d⟩ = some (v.setWidth 6, c, d.setWidth 32) ∧
    presented ys hs ⟨.lit b, a, .lit d⟩ = some (b.setWidth 6, v, d.setWidth 32) ∧
    presented ys hs ⟨.lit b, .lit c, a⟩ = some (b.setWidth 6, c, v.setWidth 32) := by
  have hlit : ∀ u, resolve ys hs (.lit u) = some u := fun _ => rfl
  simp [presented_eq_bind, h, hlit]

/-- A value that does not exist presents nothing, whichever port names it (log 7). -/
theorem presented_of_unresolved (h : resolve ys hs a = none) (p q : Source) :
    presented ys hs ⟨a, p, q⟩ = none ∧ presented ys hs ⟨p, a, q⟩ = none ∧ presented ys hs ⟨p, q, a⟩ = none := by
  simp [presented_eq_bind, h]

end Presenting

/-! ### One line of the program -/

section Lines

variable {st : State} {k : Issue} {rest : List HostItem} {opw : Opw} {x y : Data} {s : Count} {i : Instr} {c : Violation}

/-- A step on a host step records its value, and evaluates nothing (R96). -/
theorem step_of_hostStep {v : Data} (hp : st.pending = .hostStep v :: rest) :
    step st = .next ((st.advance rest).recordHost v) := step_of_cons hp

/-- A step on an issue that names a value that does not exist is refused (log 7). -/
theorem step_of_dangling (hp : st.pending = .issue k :: rest) (hk : presented st.results st.hostVals k = none) :
    step st = .refused .danglingReference := by
  simp [step_of_cons hp, runItem, runIssue, hk]

/-- A step on a legal issue delivers its result and samples it (R91). -/
theorem step_of_eval_ok (hp : st.pending = .issue k :: rest)
    (hk : presented st.results st.hostVals k = some (opw, x, s)) (heval : eval opw x s = .ok y) :
    step st = .next (((st.advance rest).drive opw x s).deliver y).sample := by
  rw [step_of_presented hp hk, heval, settle_ok, sampled_next]

/-- A step on an issue that violates the contract is its fault (R74). -/
theorem step_of_eval_fault (hp : st.pending = .issue k :: rest)
    (hk : presented st.results st.hostVals k = some (opw, x, s)) (heval : eval opw x s = .fault c) :
    step st = .fault (.contractViolation c) := by
  rw [step_of_presented hp hk, heval, settle_fault, sampled_fault]

/-- A step on an issue whose word decodes samples the operation's own meaning on the driven ports (R91, R96). -/
theorem step_of_decode (hp : st.pending = .issue k :: rest)
    (hk : presented st.results st.hostVals k = some (opw, x, s)) (hdec : decode opw = .ok i) :
    step st = sampled (exec i ((st.advance rest).drive opw x s)) := by
  rw [step_of_presented hp hk, eval_of_decode hdec, exec_eq_settle, State.drive_x, State.drive_s]

end Lines

/-! ### The word of an operation as a number -/

/-- The six bits of a word fit a whole byte (R34). -/
theorem toNat_encode_mod (i : Instr) : (encode i).toNat % 2 ^ 8 = (encode i).toNat := by
  have hlt : (encode i).toNat < 64 := (encode i).isLt
  omega

/-- The number of an operation's word decodes to the operation (R34, R42). -/
theorem decodeNat_encode (i : Instr) : decodeNat (encode i).toNat = .ok i := by
  rw [decodeNat, if_pos (encode i).isLt, BitVec.ofNat_toNat, BitVec.setWidth_eq, decode_encode]

/-- The number of an operation's word reads back as the operation from a whole byte. -/
theorem decodeTableWord_encode (i : Instr) : decodeTableWord 8 (encode i).toNat = some i := by
  rw [decodeTableWord, toNat_encode_mod, decodeNat_encode]

/-- The placed word of an operation is presented with the operand and the count that stand on the ports (log 3). -/
theorem presented_wordIssue_encode (ys hs : List Data) (st : State) (i : Instr) :
    presented ys hs (wordIssue st ((encode i).toNat % 2 ^ 8)) = some (encode i, st.x, st.s) := by
  rw [toNat_encode_mod]
  simp [wordIssue]

/-! ### Samples -/

/-- From `T_eval` on, a sample shows the settled pins (R91, R95). -/
theorem sampleAt_of_tEval_le {held : Nat} (h : Config.tEval ≤ held) (n : Nat) (opw : Opw) (x : Data) (s : Count) :
    sampleAt n held (some (opw, x, s)) = pins opw x s := if_pos h

/-- Driven inputs are the values on the input ports (R89). -/
theorem inputs_of_driven {st : State} (h : st.driven = true) : st.inputs = some (st.opw, st.x, st.s) := if_pos h

/-! ### The statements on one step -/

/-- Settles O44: both steps sample the one `eval` of the same values, or are both refused. -/
theorem evaluationsForgetThePast : Obligations.EvaluationsForgetThePast := by
  intro st st' k k' rest rest' hp hp' hsame
  cases hk : presented st.results st.hostVals k with
  | none =>
    rw [step_of_dangling hp hk, step_of_dangling hp' (hsame ▸ hk)]
    simp
  | some values =>
    obtain ⟨opw, x, s⟩ := values
    have hk' : presented st'.results st'.hostVals k' = some (opw, x, s) := hsame ▸ hk
    cases heval : eval opw x s with
    | ok y =>
      rw [step_of_eval_ok hp hk heval, step_of_eval_ok hp' hk' heval]
      refine ⟨by simp, fun t ht => ?_⟩
      cases ht
      exact ⟨_, rfl, rfl, rfl, rfl, y, rfl, rfl⟩
    | fault c =>
      rw [step_of_eval_fault hp hk heval, step_of_eval_fault hp' hk' heval]
      simp

/-- Settles O26: the settled pins of driven inputs are the outputs of a settled state. -/
theorem samplesAfterTheLatencyAreSettled : Obligations.SamplesAfterTheLatencyAreSettled := by
  refine ⟨fun n held opw x s h => sampleAt_of_tEval_le h n opw x s, fun n held st h hdriven hsettled => ?_⟩
  rw [inputs_of_driven hdriven, sampleAt_of_tEval_le h]
  exact (hsettled hdriven).symm

/-- Settles O38: the step samples the meaning of the decoded operation, whichever way it goes. -/
theorem stepRunsTheDecodedOperation : Obligations.StepRunsTheDecodedOperation := by
  intro st k rest opw x s i hp hk hdec
  rw [step_of_decode hp hk hdec]
  simp only [State.drive, State.advance]
  cases exec i { st with opw := opw, x := x, s := s, driven := true, pending := rest } with
  | next t => rfl
  | fault f => rfl
  | refused q => rfl

/-- Settles O39: a result and a host value are looked up in their lists, and fail past the end. -/
theorem issueValues : Obligations.IssueValues := fun ys hs a b c _ _ p q =>
  ⟨presented_literal ys hs a b c,
    fun h => presented_of_resolve (a := .result _) h a b c,
    fun h => presented_of_resolve (a := .host _) h a b c,
    fun h => presented_of_unresolved (a := .result _) (List.getElem?_eq_none h) p q,
    fun h => presented_of_unresolved (a := .host _) (List.getElem?_eq_none h) p q⟩

/-- Settles O41: the placed word is presented with what stands on the ports, and decodes to its operation. -/
theorem placedWordRuns : Obligations.PlacedWordRuns := by
  refine fun i st => ⟨decodeTableWord_encode i, ?_⟩
  rw [step_of_decode (State.withFetchWord_pending st 8 _) (presented_wordIssue_encode _ _ st i) (decode_encode i)]
  rfl

/-- Settles O42: taking the line off and appending its value is the whole step. -/
theorem hostStepRecordsItsValue : Obligations.HostStepRecordsItsValue := fun _ _ _ hp => step_of_hostStep hp

/-- Settles O43: a step with nothing pending is idle. -/
theorem endedProgramStands : Obligations.EndedProgramStands := fun _ hp => step_of_nil hp

end Sys2Proof.Machine

namespace Sys2Proof.Safety

open Sys2Proof.Machine

variable {st t : State} {k : Issue} {rest : List HostItem}

/-! ### References along a run -/

/-- Where the references exist, the next issue presents its values (R96). -/
theorem presented_of_referencesExist (hp : st.pending = .issue k :: rest) (h : ReferencesExist st) :
    ∃ p, presented st.results st.hostVals k = some p := by
  simp only [ReferencesExist, hp, programWf, Bool.and_eq_true] at h
  obtain ⟨hk, -⟩ := h
  exact presented_of_wf hk

/-- Where the references exist, no step is refused. -/
theorem step_ne_refused (h : ReferencesExist st) (q : Refusal) : step st ≠ .refused q := by
  cases hp : st.pending with
  | nil => simp [step_of_nil hp]
  | cons item rest =>
    cases item with
    | hostStep v => simp [step_of_hostStep hp]
    | issue k =>
      obtain ⟨⟨opw, x, s⟩, hk⟩ := presented_of_referencesExist hp h
      rw [step_of_presented hp hk, ne_eq, sampled_eq_refused_iff]
      exact settle_ne_refused q

/-- A step keeps the references: each line adds the value that the rest may name (R96). -/
theorem referencesExist_of_step (h : ReferencesExist st) (hstep : step st = .next t) : ReferencesExist t := by
  obtain ⟨-, rfl⟩ | ⟨v, rest, hp, rfl⟩ | ⟨k, rest, opw, x, s, i, y, hp, -, -, -, rfl⟩ := step_next_cases hstep
  · exact h
  · simpa [ReferencesExist] using programWf_rest_of_hostStep hp h
  · simpa [ReferencesExist] using programWf_rest_of_issue hp h

/-- Settles O47, by induction on the number of steps: the first is not refused, and the references still exist after it. -/
theorem wellFormedProgramsAreNeverRefused : Obligations.WellFormedProgramsAreNeverRefused := by
  intro st n q h
  induction n generalizing st with
  | zero => simp
  | succ n ih =>
    cases hstep : step st with
    | next t =>
      rw [run_of_next hstep]
      exact ih t (referencesExist_of_step h hstep)
    | fault f => simp [run_of_fault hstep]
    | refused r => exact absurd hstep (step_ne_refused h r)

/-! ### The end of a program -/

/-- With nothing pending, a run stays where it is (log 6). -/
theorem run_of_nil (hp : st.pending = []) (n : Nat) : run n st = .next st := by
  induction n with
  | zero => rfl
  | succ n ih => rw [run_of_next (step_of_nil hp), ih]

/-- A run of at least as many steps as there are lines ends as R96 says: by induction on the lines, each of which the
machine takes up as `programEnd` does. -/
theorem endsAs_programEnd {p : List HostItem} {n : Nat} (hp : st.pending = p) (hn : p.length ≤ n) :
    EndsAs (run n st) (programEnd st.results st.hostVals p) := by
  induction p generalizing st n with
  | nil => exact ⟨st, run_of_nil hp n, hp, rfl, rfl⟩
  | cons item rest ih =>
    obtain ⟨m, rfl⟩ : ∃ m, n = m + 1 := Nat.exists_eq_add_one.mpr (Nat.zero_lt_of_lt hn)
    have hm : rest.length ≤ m := Nat.le_of_succ_le_succ hn
    cases item with
    | hostStep v =>
      rw [run_of_next (step_of_hostStep hp)]
      exact ih rfl hm
    | issue k =>
      cases hk : presented st.results st.hostVals k with
      | none => simp [run_of_refused (step_of_dangling hp hk), programEnd, hk, EndsAs]
      | some values =>
        obtain ⟨opw, x, s⟩ := values
        cases heval : eval opw x s with
        | ok y =>
          rw [run_of_next (step_of_eval_ok hp hk heval)]
          simp only [programEnd, hk, heval]
          exact ih rfl hm
        | fault c => simp [run_of_fault (step_of_eval_fault hp hk heval), programEnd, hk, heval, EndsAs]

/-- Settles O49: the lines are those that are pending, and the values those that exist already. -/
theorem programsRunToTheirEnd : Obligations.ProgramsRunToTheirEnd := fun _ _ => endsAs_programEnd rfl

end Sys2Proof.Safety
end
